-- ==== Sys2Proof/Word.lean ====
section
/-! DEFINITION. The widths of the block's values (spec rules R7, R10, R11, R50, R70): plain bit vectors, bit 0 least significant. -/

namespace Sys2Proof

/-- A bus word, and the width of the accumulator and the tuning word (R7, R22, R52). -/
abbrev Word := BitVec 32

/-- The 16-bit operation word of R70. -/
abbrev OpWord := BitVec 16

/-- A byte offset of the register space, `0x0000` to `0x3FFF` (R50). -/
abbrev Offset := BitVec 14

/-- A table sample: unsigned, held in the widest legal sample width, 16 bits (R7, R8). -/
abbrev Sample := BitVec 16

/-- One byte lane of a bus word (R52). -/
abbrev Byte := BitVec 8

end Sys2Proof
end

