-- ==== Sys2Proof/Syntax.lean ====
section
/-! DEFINITION. The operations of the block (R70 to R76): one constructor per row of the opcode map R74, the agents that
perform them (R15) and the form in which an agent presents one. -/

namespace Sys2Proof

/-- The operations, one constructor per row of R74 in its order. `d` is the 32-bit data operand of a bus write, `off` the
byte offset of a refused access, `i` the table index `OFF[11:2]` (R72). -/
inductive Instr where
  | rdCtrl
  | rdStatus
  | rdTuning
  | rdPhase
  | rdCmp
  | rdParam
  | rdErrinfo
  | rdTable (i : BitVec 10)
  | rdRefused (off : Offset)
  | wrCtrl (d : Word)
  | wrTuning (d : Word)
  | wrPhase (d : Word)
  | wrCmp (d : Word)
  | wrRefused (off : Offset) (d : Word)
  | tick
  | update
  | reset
deriving DecidableEq, Repr

/-- The four agents of R15. -/
inductive Agent where
  | setup | timer | engine | environment
deriving DecidableEq, Repr, Inhabited

/-- The direction of a bus access, the `dir` of R53 and R181. -/
inductive Dir where
  | read | write
deriving DecidableEq, Repr

/-- The seven named registers of R22, without the table window. -/
inductive Reg where
  | ctrl | status | tuning | phase | cmp | param | errinfo
deriving DecidableEq, Repr

/-- An operation as R70 lays it out: the operation word, and a data operand where there is one. -/
structure OpWords where
  word : OpWord
  data : Option Word
deriving DecidableEq, Repr, Inhabited

/-- An operation presented to the block, with the agent that presents it (R76). -/
structure Presentation where
  agent : Agent
  op : OpWords
deriving DecidableEq, Repr, Inhabited

end Sys2Proof
end

