-- ==== Sys2Proof/WellFormed.lean ====
section
/-! DEFINITION. Which operations the opcode map R74 can spell, for an instance of `tb = TABLE_BITS`: the refused accesses
are those of offsets the map does not take, written here by the arithmetic of R53 and not by the decoder's bit fields. -/

namespace Sys2Proof

/-- R53: the access at `off` is mapped. -/
def mappedOffset (tb : Nat) (off : Offset) : Bool :=
  decide (off.toNat % 4 = 0) &&
    (decide (off.toNat ≤ 0x018) || decide (0x1000 ≤ off.toNat ∧ off.toNat < 0x1000 + 4 * 2 ^ tb))

/-- R22, R153: the offsets of the four registers that a bus write may reach. -/
def writableOffset (off : Offset) : Bool :=
  decide (off.toNat = 0x000 ∨ off.toNat = 0x008 ∨ off.toNat = 0x00C ∨ off.toNat = 0x010)

/-- The well-formed operations: those that some operation word spells (R74, first match wins). -/
def Instr.wf (tb : Nat) : Instr → Bool
  | .rdCtrl => true
  | .rdStatus => true
  | .rdTuning => true
  | .rdPhase => true
  | .rdCmp => true
  | .rdParam => true
  | .rdErrinfo => true
  | .rdTable i => decide (i.toNat < 2 ^ tb)
  | .rdRefused off => !mappedOffset tb off
  | .wrCtrl _ => true
  | .wrTuning _ => true
  | .wrPhase _ => true
  | .wrCmp _ => true
  | .wrRefused off _ => !writableOffset off
  | .tick => true
  | .update => true
  | .reset => true

end Sys2Proof
end

