-- ==== Sys2Proof/Decode.lean ====
section
/-! DEFINITION. The decoder of R74 (first match wins), total on every operation word and refusing by name, the encoder
written from the same map, and the numbering of an operation's bits that the opcode table uses. -/

namespace Sys2Proof

/-- Why words spell no operation: a reserved word (R75), or a data operand missing from a write or present on another
operation (R70, D25). -/
inductive DecodeError where
  | reservedWord (w : OpWord)
  | operandMismatch (w : OpWord)
deriving DecidableEq, Repr

/-- The byte offset of a named register (R22). -/
def regOffset : Reg → Offset
  | .ctrl => 0x000#14
  | .status => 0x004#14
  | .tuning => 0x008#14
  | .phase => 0x00C#14
  | .cmp => 0x010#14
  | .param => 0x014#14
  | .errinfo => 0x018#14

/-- The named register at an offset, where there is one (R22). -/
def regAt (off : Offset) : Option Reg :=
  if off = 0x000#14 then some .ctrl
  else if off = 0x004#14 then some .status
  else if off = 0x008#14 then some .tuning
  else if off = 0x00C#14 then some .phase
  else if off = 0x010#14 then some .cmp
  else if off = 0x014#14 then some .param
  else if off = 0x018#14 then some .errinfo
  else none

/-- `OFF[11:2]`, the table index of R72. -/
def tableIndexField (off : Offset) : BitVec 10 := off.extractLsb' 2 10

/-- The offset of table entry `i`, `0x1000 + 4*i` (R22, R72): the fields `01`, `i`, `00`. -/
def tableOffset (i : BitVec 10) : Offset := 0b01#2 ++ i ++ 0b00#2

/-- R72: the offset is that of a table entry, `OFF[13:12] = 01`, `OFF[1:0] = 00`, `OFF[11:2] < TABLE_SIZE`. -/
def inTableWindow (tb : Nat) (off : Offset) : Bool :=
  decide (off.extractLsb' 12 2 = 0b01#2) && decide (off.extractLsb' 0 2 = 0b00#2) &&
    decide ((tableIndexField off).toNat < 2 ^ tb)

/-- The class field `CLS = w[15:14]` (R71). -/
def classField (w : OpWord) : BitVec 2 := w.extractLsb' 14 2

/-- The low field `w[13:0]`: the offset of format B, the event number of format E (R71 to R73). -/
def lowField (w : OpWord) : BitVec 14 := w.extractLsb' 0 14

/-- The read rows of R74. -/
def decodeRead (tb : Nat) (off : Offset) : Instr :=
  match regAt off with
  | some .ctrl => .rdCtrl
  | some .status => .rdStatus
  | some .tuning => .rdTuning
  | some .phase => .rdPhase
  | some .cmp => .rdCmp
  | some .param => .rdParam
  | some .errinfo => .rdErrinfo
  | none => if inTableWindow tb off then .rdTable (tableIndexField off) else .rdRefused off

/-- The write rows of R74: the read-only words fall to WR_REFUSED (R153). -/
def decodeWrite (off : Offset) (d : Word) : Instr :=
  match regAt off with
  | some .ctrl => .wrCtrl d
  | some .status => .wrRefused off d
  | some .tuning => .wrTuning d
  | some .phase => .wrPhase d
  | some .cmp => .wrCmp d
  | some .param => .wrRefused off d
  | some .errinfo => .wrRefused off d
  | none => .wrRefused off d

/-- The event rows of R74; event numbers from 3 on are reserved (R71, R75). -/
def decodeEvent (evt : BitVec 14) : Option Instr :=
  if evt = 0#14 then some .tick
  else if evt = 1#14 then some .update
  else if evt = 2#14 then some .reset
  else none

/-- The operation that the words spell, for an instance of `tb = TABLE_BITS` (R74); the class field is read first (R70). -/
def decode (tb : Nat) (op : OpWords) : Except DecodeError Instr :=
  if classField op.word = 0b00#2 then
    match op.data with
    | none => .ok (decodeRead tb (lowField op.word))
    | some _ => .error (.operandMismatch op.word)
  else if classField op.word = 0b01#2 then
    match op.data with
    | some d => .ok (decodeWrite (lowField op.word) d)
    | none => .error (.operandMismatch op.word)
  else if classField op.word = 0b10#2 then
    match decodeEvent (lowField op.word), op.data with
    | some i, none => .ok i
    | some _, some _ => .error (.operandMismatch op.word)
    | none, _ => .error (.reservedWord op.word)
  else .error (.reservedWord op.word)

/-- A word of format B or E from its class and low field (R71). -/
def formatWord (cls : BitVec 2) (low : BitVec 14) : OpWord := cls ++ low

/-- A read's words (R71: `CLS = 00`, no data). -/
def readWords (off : Offset) : OpWords := ⟨formatWord 0b00#2 off, none⟩

/-- A write's words (R71: `CLS = 01`, the data operand). -/
def writeWords (off : Offset) (d : Word) : OpWords := ⟨formatWord 0b01#2 off, some d⟩

/-- An event's words (R71: `CLS = 10`, no data). -/
def eventWords (evt : BitVec 14) : OpWords := ⟨formatWord 0b10#2 evt, none⟩

/-- The words of an operation, from the encodings of R74. -/
def encode : Instr → OpWords
  | .rdCtrl => readWords (regOffset .ctrl)
  | .rdStatus => readWords (regOffset .status)
  | .rdTuning => readWords (regOffset .tuning)
  | .rdPhase => readWords (regOffset .phase)
  | .rdCmp => readWords (regOffset .cmp)
  | .rdParam => readWords (regOffset .param)
  | .rdErrinfo => readWords (regOffset .errinfo)
  | .rdTable i => readWords (tableOffset i)
  | .rdRefused off => readWords off
  | .wrCtrl d => writeWords (regOffset .ctrl) d
  | .wrTuning d => writeWords (regOffset .tuning) d
  | .wrPhase d => writeWords (regOffset .phase) d
  | .wrCmp d => writeWords (regOffset .cmp) d
  | .wrRefused off d => writeWords off d
  | .tick => eventWords 0#14
  | .update => eventWords 1#14
  | .reset => eventWords 2#14

/-- An operation's words from its bits as the opcode table numbers them: bits 15:0 the operation word and, for a write,
bits 47:16 the data operand; the bits from `nbits` on are 0 (DESIGN CHOICE: the spec gives `D` no place beside the word,
log entry 8). -/
def wordsOfBits (nbits w : Nat) : OpWords :=
  let bits := w % 2 ^ nbits
  let word : OpWord := BitVec.ofNat 16 bits
  if classField word = 0b01#2 then ⟨word, some (BitVec.ofNat 32 (bits / 2 ^ 16))⟩ else ⟨word, none⟩

/-- The decoder on one row's bits, for the reference instance (`TABLE_BITS = 8`, R9). -/
def decodeTableWord (nbits w : Nat) : Option Instr :=
  match decode 8 (wordsOfBits nbits w) with
  | .ok i => some i
  | .error _ => none

end Sys2Proof
end

