-- ==== Sys2Proof/Config.lean ====
section
/-! DEFINITION. What an instance of the block fixes: the parameters of R7, when they are well formed (R8), the reference
instance (R9), and the values that the spec leaves OPEN, each a constant without a body. -/

namespace Sys2Proof

/-- The parameters of R7, with the base address `DDS_BASE` of R51. `waveTable` lists `WAVE_TABLE[0]`, `WAVE_TABLE[1]`, … in
order. `tickHz` and `ddsBase` enter no operation (R7, R51). -/
structure Params where
  tableBits : Nat
  sampleWidth : Nat
  shift : Nat
  cmpWidth : Nat
  waveTable : List Sample
  tuningInit : Word
  phaseInit : Word
  tickHz : Nat
  ddsBase : Nat
deriving DecidableEq, Repr

/-- `TABLE_SIZE = 2^TABLE_BITS` (R7). -/
def Params.tableSize (p : Params) : Nat := 2 ^ p.tableBits

/-- R8: when a parameter set is well formed. `TUNING_INIT < 2^32` and `PHASE_INIT < 2^32` hold by their type. -/
def Params.wf (p : Params) : Bool :=
  decide (1 ≤ p.tableBits ∧ p.tableBits ≤ 10) && decide (1 ≤ p.sampleWidth ∧ p.sampleWidth ≤ 16) &&
    decide (p.shift ≤ 31) && decide (p.sampleWidth + p.shift ≤ p.cmpWidth ∧ p.cmpWidth ≤ 32) &&
    decide (p.waveTable.length = p.tableSize) && p.waveTable.all (fun x => decide (x.toNat < 2 ^ p.sampleWidth))

/-- An instance of the block: a parameter set together with the fact that it is well formed. R8: an ill-formed set
"describes no instance of the block", so it makes no value of this type (DESIGN CHOICE, log entry 1). -/
structure Instance where
  params : Params
  ok : params.wf = true
deriving DecidableEq, Repr

/-- The instance of a parameter set; a set that is not well formed is refused (R8, U13). -/
def Instance.ofParams (p : Params) : Option Instance :=
  if h : p.wf = true then some ⟨p, h⟩ else none

/-- OPEN (R7, R9, D13): the reference instance's `CMP_WIDTH` is `11` plus this value, at most `32`. Free value, log entry 2. -/
opaque Config.cmpHeadroom : Fin 22

/-- OPEN (R30, N1, D30): the reference table's samples, 8 bits each, other than entry 16. Free value, log entry 2. -/
opaque Config.openSample : Nat → BitVec 8

/-- OPEN (R51, D3): the block's base address on the host's bus. Free value, log entry 2. -/
opaque Config.ddsBase : Nat

/-- Which operation an agent presents at a turn for which nothing has been laid down: the free order of R15 and R55.
Free value, log entry 5. -/
opaque Config.freePresentation : Nat → Presentation

/-- The reference table: entry 16 is `0x10` (R7, C6), every other entry is open. -/
def Params.referenceTable : List Sample :=
  (List.range 256).map fun i => if i = 16 then 0x10#16 else (Config.openSample i).setWidth 16

/-- The reference instance's parameters (R9). -/
def Params.reference : Params where
  tableBits := 8
  sampleWidth := 8
  shift := 3
  cmpWidth := 11 + Config.cmpHeadroom.val
  waveTable := Params.referenceTable
  tuningInit := 0x10624DD2#32
  phaseInit := 0#32
  tickHz := 15625
  ddsBase := Config.ddsBase

/-- Every sample of the reference table fits in 8 bits, whatever the open entries are. -/
theorem Params.referenceTable_lt (x : Sample) (h : x ∈ Params.referenceTable) : x.toNat < 2 ^ 8 := by
  obtain ⟨i, -, rfl⟩ := List.mem_map.1 h
  split
  · decide
  · have := (Config.openSample i).isLt
    simp only [BitVec.toNat_setWidth]
    omega

/-- R9's instance meets R8 for every value of the open parameters. -/
theorem Params.reference_wf : Params.reference.wf = true := by
  have hw := Config.cmpHeadroom.isLt
  simp only [Params.wf, Params.tableSize, Bool.and_eq_true, decide_eq_true_eq, List.all_eq_true]
  refine ⟨⟨⟨⟨⟨by decide, by decide⟩, by decide⟩, ?_⟩, ?_⟩, Params.referenceTable_lt⟩
  · simp only [Params.reference]
    omega
  · simp [Params.reference, Params.referenceTable]

/-- The reference instance (R9). -/
def Instance.reference : Instance := ⟨Params.reference, Params.reference_wf⟩

end Sys2Proof
end

