-- ==== Sys2Proof/Machine/State.lean ====
section
/-! DEFINITION. The state of the block (R22 to R32) as plain data, the reasons a step can stop, and the state after reset
(R200, R201). The block has no data memory (R50), so State lists no bytes. -/

namespace Sys2Proof.Machine

/-- `CTRL` (R23): the two enables; the reserved bits are none and read 0. -/
structure Ctrl where
  ten : Bool
  uie : Bool
deriving DecidableEq, Repr

/-- `STATUS` (R24): the update-pending flag and the two sticky faults; the reserved bits are none and read 0. -/
structure Status where
  uif : Bool
  ovr : Bool
  cfgerr : Bool
deriving DecidableEq, Repr

/-- `ERRINFO` (R29): the first refused bus access. -/
structure ErrInfo where
  valid : Bool
  wr : Bool
  off : Offset
deriving DecidableEq, Repr

/-- The block's state, and three fields of the model that are no state of the block: `returned`, `pending`, `turn`. -/
structure State where
  /-- The instance (R7): its parameters, `WAVE_TABLE` (R30) among them. No operation writes it. -/
  inst : Instance
  /-- `CTRL` (R23). -/
  ctrl : Ctrl
  /-- `STATUS` (R24). -/
  status : Status
  /-- `TUNING` (R25). -/
  tuning : Word
  /-- `PHASE` (R26). -/
  phase : Word
  /-- `CMP` (R27), read through its field `CMP[CMP_WIDTH-1:0]`. -/
  cmp : Word
  /-- `ERRINFO` (R29). -/
  errinfo : ErrInfo
  /-- The model's own: the value `r` that the operation just performed returned to the setup agent, if it was a read
  (DESIGN CHOICE, log entry 3). -/
  returned : Option Word
  /-- The model's own: the operations presented and not yet performed, in the total order of R55
  (DESIGN CHOICE, log entry 4). -/
  pending : List Presentation
  /-- The model's own: how many turns of the free order have been taken (DESIGN CHOICE, log entry 5). -/
  turn : Nat
deriving DecidableEq, Repr

/-- The reasons the machine stops with a fault: none. The block's two faults are sticky bits and "A fault does not stop
the block" (R181); no behaviour is `stuck` (93_implementation_defined.md). No constructor, so nothing raises one
(log entry 11). -/
inductive Fault where
deriving DecidableEq, Repr

/-- The reasons the model refuses. -/
inductive Refusal where
  /-- Raised by no one once every arm of `exec` has its meaning. Safe: the run stops. -/
  | notModelled (mnemonic : String)
  /-- Raised by `nextOperation` for a word that spells no operation (R75: "A model refuses them"). Safe. -/
  | reservedWord (w : OpWord)
  /-- Raised by `nextOperation` for a write without its data operand, or another operation with one, which R70 and D25 do
  not have. Safe: the model has no run for it (log entry 8). -/
  | operandMismatch (w : OpWord)
  /-- Raised by `nextOperation` for an operation presented by an agent that may not present it (R76). Safe. -/
  | wrongAgent (a : Agent)
  /-- Raised by `execTick` while `CTRL.TEN = 0`: "TICK never occurs" (R120). Safe: no run has it (log entry 6). -/
  | tickNotEnabled
  /-- Raised by `execUpdate` unless `STATUS.UIF = 1 and CTRL.UIE = 1` (R124). Safe: no run has it (log entry 6). -/
  | updateNotEnabled
deriving DecidableEq, Repr

/-- The state of an instance right after RESET (R201). -/
def State.initial (inst : Instance) : State where
  inst := inst
  ctrl := ⟨false, false⟩
  status := ⟨false, false, false⟩
  tuning := inst.params.tuningInit
  phase := inst.params.phaseInit
  cmp := 0#32
  errinfo := ⟨false, false, 0#14⟩
  returned := none
  pending := []
  turn := 0

/-- The state after reset of the reference instance (R9, R201): every run begins here (R202). -/
def State.reset : State := State.initial Instance.reference

end Sys2Proof.Machine
end

