-- ==== Sys2Proof/Machine/Operands.lean ====
section
/-! DEFINITION. The operand forms: the bits of a write's data that a register takes (R72), the words that the registers
and the table give on the bus (R22 to R30), and the register space as words and as byte lanes (R50 to R53). -/

namespace Sys2Proof.Machine

/-- `v[width-1:0]` as a 32-bit value (R11): the low `width` bits, zeros above. -/
def lowBits (width : Nat) (v : Word) : Word := BitVec.ofNat 32 (v.toNat % 2 ^ width)

/-- `D[0]`, the new `TEN` of a WR_CTRL (R146). -/
def dataTen (d : Word) : Bool := d.getLsbD 0

/-- `D[1]`, the new `UIE` of a WR_CTRL (R146). -/
def dataUie (d : Word) : Bool := d.getLsbD 1

/-- Whether `D` is in the compare range `[0, 2^CMP_WIDTH - 1]` (R152). -/
def dataInCompareRange (p : Params) (d : Word) : Bool := decide (d.toNat < 2 ^ p.cmpWidth)

/-- `CTRL` as a bus word (R23, R140). -/
def ctrlWord (c : Ctrl) : Word := (BitVec.ofBool c.uie ++ BitVec.ofBool c.ten).setWidth 32

/-- `STATUS` as a bus word (R24, R141). -/
def statusWord (st : Status) : Word :=
  (BitVec.ofBool st.cfgerr ++ BitVec.ofBool st.ovr ++ BitVec.ofBool st.uif).setWidth 32

/-- `ERRINFO` as a bus word: `VALID`, sixteen reserved bits, `WR`, `OFF` (R29). -/
def errinfoWord (e : ErrInfo) : Word := BitVec.ofBool e.valid ++ 0#16 ++ BitVec.ofBool e.wr ++ e.off

/-- `PARAM` as a bus word (R28, R145). -/
def paramWord (p : Params) : Word :=
  (BitVec.ofNat 32 p.cmpWidth <<< 24) + (BitVec.ofNat 32 p.shift <<< 16) +
    (BitVec.ofNat 32 (p.sampleWidth % 32) <<< 8) + BitVec.ofNat 32 p.tableBits

/-- `TableRead(i)`: `WAVE_TABLE[i]` (R12, R30, R102). An index outside the table, which no rule reads (R106, R148), gives 0. -/
def tableRead (p : Params) (i : Nat) : Sample := p.waveTable.getD i 0#16

/-- The bus word of a named register (R22 to R29). -/
def State.regWord (r : Reg) (s : State) : Word :=
  match r with
  | .ctrl => ctrlWord s.ctrl
  | .status => statusWord s.status
  | .tuning => s.tuning
  | .phase => s.phase
  | .cmp => lowBits s.inst.params.cmpWidth s.cmp
  | .param => paramWord s.inst.params
  | .errinfo => errinfoWord s.errinfo

/-- The bus word of table entry `i` (R30). -/
def State.tableWord (i : BitVec 10) (s : State) : Word := (tableRead s.inst.params i.toNat).setWidth 32

/-- The word that the register space holds at an offset (R22, R53); an offset that is not mapped holds nothing and
shows 0, as a read of it returns. -/
def State.spaceWord (off : Offset) (s : State) : Word :=
  match regAt off with
  | some r => s.regWord r
  | none => if inTableWindow s.inst.params.tableBits off then s.tableWord (tableIndexField off) else 0#32

/-- Byte lane `k` of a word: bits `[8k+7:8k]` (R52). -/
def byteLane (k : Nat) (v : Word) : Byte := v.extractLsb' (8 * k) 8

/-- The byte of the register space at a byte offset: lane `OFF[1:0]` of the aligned word that holds it (R52)
(DESIGN CHOICE as a view of the state, log entry 9). -/
def State.spaceByte (a : Offset) (s : State) : Byte :=
  byteLane (a.toNat % 4) (s.spaceWord (BitVec.ofNat 14 (4 * (a.toNat / 4))))

/-- The byte at an address of the host's bus, where the block answers there: its register space lies at `DDS_BASE`
(R51, R52). -/
def State.hostByte (addr : Nat) (s : State) : Option Byte :=
  if s.inst.params.ddsBase ≤ addr ∧ addr < s.inst.params.ddsBase + 0x4000 then
    some (s.spaceByte (BitVec.ofNat 14 (addr - s.inst.params.ddsBase)))
  else none

end Sys2Proof.Machine
end

