-- ==== Sys2Proof/Machine/Engine.lean ====
section
/-! DEFINITION. The DDS Engine (R100 to R105): a pure function of the accumulator, the tuning word and the instance. -/

namespace Sys2Proof.Machine

/-- STEP (R100): 32-bit wrapping addition; the carry is recorded nowhere. -/
def phaseAdvance (acc tw : Word) : Word := acc + tw

/-- INDEX (R101): the top `TABLE_BITS` bits of the advanced accumulator. -/
def tableIndex (p : Params) (acc : Word) : Nat := (acc >>> (32 - p.tableBits)).toNat

/-- WIDEN (R103): the sample shifted left by `SHIFT`, which loses no bit (R8). -/
def widen (p : Params) (x : Sample) : Word := BitVec.ofNat 32 (x.toNat <<< p.shift)

/-- The compare value of an accumulator value: INDEX, then LOOKUP (R102), then WIDEN. -/
def compareValue (p : Params) (acc : Word) : Word := widen p (tableRead p (tableIndex p acc))

/-- ENGINE (R104): advance first, then index from the advanced value, look up, widen; returns `(acc_next, cmpval)`. -/
def engine (p : Params) (acc tw : Word) : Word × Word := (phaseAdvance acc tw, compareValue p (phaseAdvance acc tw))

end Sys2Proof.Machine
end

