-- ==== Sys2Proof/Machine/Flags.lean ====
section
/-! DEFINITION. The flags of the block (R31): the enables, the update-pending flag, the sticky faults, the lock, and the
conditions under which the timer and the engine agent may act. No operation has a carry, zero, sign or overflow flag. -/

namespace Sys2Proof.Machine

/-- `STATUS.UIF <- b`. -/
def State.setUif (b : Bool) (s : State) : State := { s with status := { s.status with uif := b } }

/-- `STATUS.OVR <- 1`. -/
def State.setOvr (s : State) : State := { s with status := { s.status with ovr := true } }

/-- `STATUS.CFGERR <- 1`. -/
def State.setCfgerr (s : State) : State := { s with status := { s.status with cfgerr := true } }

/-- `CTRL.TEN <- ten; CTRL.UIE <- uie`. -/
def State.setCtrl (ten uie : Bool) (s : State) : State := { s with ctrl := ⟨ten, uie⟩ }

/-- Locked: `CTRL.TEN = 1 or CTRL.UIE = 1` (R23). -/
def State.locked (s : State) : Bool := s.ctrl.ten || s.ctrl.uie

/-- Armed: `CTRL.UIE = 1` (R23). -/
def State.armed (s : State) : Bool := s.ctrl.uie

/-- An overrun: a tick while an update is still pending and armed (R120). -/
def State.overrun (s : State) : Bool := s.status.uif && s.ctrl.uie

/-- TICK is enabled: `CTRL.TEN = 1` (R120). -/
def State.tickEnabled (s : State) : Bool := s.ctrl.ten

/-- UPDATE is enabled: `STATUS.UIF = 1 and CTRL.UIE = 1` (R124). -/
def State.updateEnabled (s : State) : Bool := s.status.uif && s.ctrl.uie

/-- A write of `ten`, `uie` to `CTRL` would clear a set bit (R146). -/
def State.wouldClearCtrl (ten uie : Bool) (s : State) : Bool := (s.ctrl.ten && !ten) || (s.ctrl.uie && !uie)

end Sys2Proof.Machine
end

