-- ==== Sys2Proof/Machine/Ops.lean ====
section
/-! DEFINITION. The shared operations over the registers: writes, what a read answers, raising a fault (R181), the
return from a serviced request (R187), the refused access (R53) and the reset of the registers (R200). -/

namespace Sys2Proof.Machine

/-- A fault of R180 with the info it records: OVR records none, CFGERR the offset and direction of the access. -/
inductive BlockFault where
  | ovr
  | cfgerr (off : Offset) (dir : Dir)
deriving DecidableEq, Repr

/-- `TUNING <- v`. -/
def State.setTuning (v : Word) (s : State) : State := { s with tuning := v }

/-- `PHASE <- v`. -/
def State.setPhase (v : Word) (s : State) : State := { s with phase := v }

/-- `CMP <- v`. -/
def State.setCmp (v : Word) (s : State) : State := { s with cmp := v }

/-- A read returns `r` to the setup agent (42_setup_interface.md). -/
def State.answer (r : Word) (s : State) : State := { s with returned := some r }

/-- `ERRINFO` takes a refused access if it holds none yet (R29, R181). -/
def State.recordAccess (off : Offset) (dir : Dir) (s : State) : State :=
  if s.errinfo.valid then s else { s with errinfo := ⟨true, decide (dir = .write), off⟩ }

/-- `raise Fault(F, info)` (R181), the one way a fault is taken: the sticky bit, and for CFGERR the record. -/
def State.raiseFault (f : BlockFault) (s : State) : State :=
  match f with
  | .ovr => s.setOvr
  | .cfgerr off dir => s.setCfgerr.recordAccess off dir

/-- The return from a serviced request: clearing `UIF` re-arms it (R187). -/
def State.endOfService (s : State) : State := s.setUif false

/-- A refused read: it returns 0 and raises CFGERR (R53, R149). -/
def State.refuseRead (off : Offset) (s : State) : State := (s.answer 0#32).raiseFault (.cfgerr off .read)

/-- A refused write: it raises CFGERR and changes no other register (R53, R153). -/
def State.refuseWrite (off : Offset) (s : State) : State := s.raiseFault (.cfgerr off .write)

/-- The registers take their reset values (R200); the instance and what the agents have presented stay. -/
def State.resetRegisters (s : State) : State :=
  { s with
    ctrl := ⟨false, false⟩
    status := ⟨false, false, false⟩
    errinfo := ⟨false, false, 0#14⟩
    tuning := s.inst.params.tuningInit
    phase := s.inst.params.phaseInit
    cmp := 0#32 }

end Sys2Proof.Machine
end

