-- ==== Sys2Proof/Machine/Event.lean ====
section
/-! DEFINITION. The events TICK (R120), UPDATE (R124) and RESET (R200). -/

namespace Sys2Proof.Machine

/-- TICK (R120): the timer's update event. It never occurs while `CTRL.TEN = 0` (log entry 6). -/
def execTick (s : State) : Host.Outcome State Fault Refusal :=
  if s.tickEnabled then .next ((if s.overrun then s.raiseFault .ovr else s).setUif true)
  else .refused .tickNotEnabled

/-- UPDATE (R124): one engine step, its sample published, the pending flag cleared. The engine agent performs it only while
it is enabled (log entry 6). -/
def execUpdate (s : State) : Host.Outcome State Fault Refusal :=
  if s.updateEnabled then
    .next (((s.setPhase (engine s.inst.params s.phase s.tuning).1).setCmp
      (engine s.inst.params s.phase s.tuning).2).endOfService)
  else .refused .updateNotEnabled

/-- RESET (R200). -/
def execReset (s : State) : Host.Outcome State Fault Refusal := .next s.resetRegisters

end Sys2Proof.Machine
end

