-- ==== Sys2Proof/Machine/Read.lean ====
section
/-! DEFINITION. The bus reads RD_* (R140 to R145, R147 to R149). A read changes nothing but the value it returns (R54). -/

namespace Sys2Proof.Machine

/-- RD_CTRL (R140). -/
def execRdCtrl (s : State) : Host.Outcome State Fault Refusal := .next (s.answer (s.regWord .ctrl))

/-- RD_STATUS (R141). -/
def execRdStatus (s : State) : Host.Outcome State Fault Refusal := .next (s.answer (s.regWord .status))

/-- RD_TUNING (R142). -/
def execRdTuning (s : State) : Host.Outcome State Fault Refusal := .next (s.answer (s.regWord .tuning))

/-- RD_PHASE (R143). -/
def execRdPhase (s : State) : Host.Outcome State Fault Refusal := .next (s.answer (s.regWord .phase))

/-- RD_CMP (R144). -/
def execRdCmp (s : State) : Host.Outcome State Fault Refusal := .next (s.answer (s.regWord .cmp))

/-- RD_PARAM (R145). -/
def execRdParam (s : State) : Host.Outcome State Fault Refusal := .next (s.answer (s.regWord .param))

/-- RD_ERRINFO (R147). -/
def execRdErrinfo (s : State) : Host.Outcome State Fault Refusal := .next (s.answer (s.regWord .errinfo))

/-- RD_TABLE (R148). An index past the table, which the decoder never gives, is the refused read of its offset
(R148, R149; log entry 10). -/
def execRdTable (i : BitVec 10) (s : State) : Host.Outcome State Fault Refusal :=
  .next (if i.toNat < s.inst.params.tableSize then s.answer (s.tableWord i) else s.refuseRead (tableOffset i))

/-- RD_REFUSED (R149). -/
def execRdRefused (off : Offset) (s : State) : Host.Outcome State Fault Refusal := .next (s.refuseRead off)

end Sys2Proof.Machine
end

