-- ==== Sys2Proof/Machine/Write.lean ====
section
/-! DEFINITION. The bus writes WR_* (R146, R150 to R153). -/

namespace Sys2Proof.Machine

/-- WR_CTRL (R146): set-only; a write that would clear a set bit is ignored whole and raises CFGERR. -/
def execWrCtrl (d : Word) (s : State) : Host.Outcome State Fault Refusal :=
  .next (if s.wouldClearCtrl (dataTen d) (dataUie d) then s.refuseWrite (regOffset .ctrl)
    else s.setCtrl (dataTen d) (dataUie d))

/-- WR_TUNING (R150). -/
def execWrTuning (d : Word) (s : State) : Host.Outcome State Fault Refusal :=
  .next (if s.locked then s.refuseWrite (regOffset .tuning) else s.setTuning d)

/-- WR_PHASE (R151). -/
def execWrPhase (d : Word) (s : State) : Host.Outcome State Fault Refusal :=
  .next (if s.locked then s.refuseWrite (regOffset .phase) else s.setPhase d)

/-- WR_CMP (R152). -/
def execWrCmp (d : Word) (s : State) : Host.Outcome State Fault Refusal :=
  .next (if s.locked || !dataInCompareRange s.inst.params d then s.refuseWrite (regOffset .cmp)
    else s.setCmp (lowBits s.inst.params.cmpWidth d))

/-- WR_REFUSED (R153): the data is ignored. -/
def execWrRefused (off : Offset) (_d : Word) (s : State) : Host.Outcome State Fault Refusal :=
  .next (s.refuseWrite off)

end Sys2Proof.Machine
end

