-- ==== Sys2Proof/Machine/Dispatch.lean ====
section
/-! DEFINITION. The dispatch of every operation to its meaning. -/

namespace Sys2Proof.Machine

def exec (i : Instr) (s : State) : Host.Outcome State Fault Refusal :=
  match i with
  | .rdCtrl => Sys2Proof.Machine.execRdCtrl s
  | .rdStatus => Sys2Proof.Machine.execRdStatus s
  | .rdTuning => Sys2Proof.Machine.execRdTuning s
  | .rdPhase => Sys2Proof.Machine.execRdPhase s
  | .rdCmp => Sys2Proof.Machine.execRdCmp s
  | .rdParam => Sys2Proof.Machine.execRdParam s
  | .rdErrinfo => Sys2Proof.Machine.execRdErrinfo s
  | .rdTable k => Sys2Proof.Machine.execRdTable k s
  | .rdRefused off => Sys2Proof.Machine.execRdRefused off s
  | .wrCtrl d => Sys2Proof.Machine.execWrCtrl d s
  | .wrTuning d => Sys2Proof.Machine.execWrTuning d s
  | .wrPhase d => Sys2Proof.Machine.execWrPhase d s
  | .wrCmp d => Sys2Proof.Machine.execWrCmp d s
  | .wrRefused off d => Sys2Proof.Machine.execWrRefused off d s
  | .tick => Sys2Proof.Machine.execTick s
  | .update => Sys2Proof.Machine.execUpdate s
  | .reset => Sys2Proof.Machine.execReset s

end Sys2Proof.Machine
end

