-- ==== Sys2Proof/Machine/Presentation.lean ====
section
/-! DEFINITION. How an operation comes to be performed: the agents' rights (R15, R76), the enabling conditions, the
operation that the next step performs, and the laying down of an operation for the next step. -/

namespace Sys2Proof.Machine

/-- The agent that may present an operation (R76). -/
def agentOf : Instr → Agent
  | .rdCtrl => .setup
  | .rdStatus => .setup
  | .rdTuning => .setup
  | .rdPhase => .setup
  | .rdCmp => .setup
  | .rdParam => .setup
  | .rdErrinfo => .setup
  | .rdTable _ => .setup
  | .rdRefused _ => .setup
  | .wrCtrl _ => .setup
  | .wrTuning _ => .setup
  | .wrPhase _ => .setup
  | .wrCmp _ => .setup
  | .wrRefused _ _ => .setup
  | .tick => .timer
  | .update => .engine
  | .reset => .environment

/-- The condition under which the agent may perform an operation ("Enabled when"): R120, R124, R200, and for the bus
operations "enabled at every point of a run" (42_setup_interface.md). -/
def enabled (i : Instr) (s : State) : Bool :=
  match i with
  | .rdCtrl => true
  | .rdStatus => true
  | .rdTuning => true
  | .rdPhase => true
  | .rdCmp => true
  | .rdParam => true
  | .rdErrinfo => true
  | .rdTable _ => true
  | .rdRefused _ => true
  | .wrCtrl _ => true
  | .wrTuning _ => true
  | .wrPhase _ => true
  | .wrCmp _ => true
  | .wrRefused _ _ => true
  | .tick => s.tickEnabled
  | .update => s.updateEnabled
  | .reset => true

/-- A decoding error as the refusal it leads to (R75, D25). -/
def refusalOf : DecodeError → Refusal
  | .reservedWord w => .reservedWord w
  | .operandMismatch w => .operandMismatch w

/-- The operation that a presentation asks for, or why it is refused: its words must spell one (R74, R75), and its agent
must be the one that may present it (R76). -/
def accept (p : Presentation) (s : State) : Except Refusal Instr :=
  match decode s.inst.params.tableBits p.op with
  | .error e => .error (refusalOf e)
  | .ok i => if agentOf i = p.agent then .ok i else .error (.wrongAgent p.agent)

/-- What a step does: perform an operation on a state, pass a turn in which no agent acts, or refuse. -/
inductive Turn where
  | perform (i : Instr) (s : State)
  | pass (s : State)
  | refuse (r : Refusal)
deriving DecidableEq, Repr

/-- The turn of a presentation that has been laid down: it is accepted or refused. -/
def laidDownTurn (p : Presentation) (s : State) : Turn :=
  match accept p s with
  | .ok i => .perform i s
  | .error r => .refuse r

/-- The turn of the free order: an agent takes an enabled step, or none does (R15). -/
def freeTurn (p : Presentation) (s : State) : Turn :=
  match accept p s with
  | .ok i => if enabled i s then .perform i s else .pass s
  | .error _ => .pass s

/-- The next turn: the oldest operation laid down, else one of the free order (R15, R55; log entries 4 and 5). The value
that the operation before it returned is gone. -/
def nextTurn (s : State) : Turn :=
  match s.pending with
  | p :: rest => laidDownTurn p { s with pending := rest, returned := none }
  | [] => freeTurn (Config.freePresentation s.turn) { s with turn := s.turn + 1, returned := none }

/-- A presentation is laid down to be the next one performed. -/
def State.layDown (p : Presentation) (s : State) : State := { s with pending := p :: s.pending }

/-- The enabling condition of an event brought about where it does not hold, since its agent presents it only then
(R120, R124): a TICK needs the timer started, an UPDATE a pending tick and the update enabled (log entry 7). -/
def State.makeEnabled (i : Instr) (s : State) : State :=
  if enabled i s then s
  else
    match i with
    | .tick => s.setCtrl true s.ctrl.uie
    | .update => (s.setCtrl true true).setUif true
    | _ => s

/-- The state in which the next step performs the operation that the words spell, presented by its own agent
(log entry 7). -/
def State.layDownWords (op : OpWords) (s : State) : State :=
  match decode s.inst.params.tableBits op with
  | .ok i => (s.makeEnabled i).layDown ⟨agentOf i, op⟩
  | .error _ => s.layDown ⟨.setup, op⟩

end Sys2Proof.Machine
end

