-- ==== Sys2Proof/Machine/Step.lean ====
section
/-! DEFINITION. One step of the machine: one turn of the total order of operations (R13, R55). -/

namespace Sys2Proof.Machine

/-- One step: the next turn's operation is performed (R13), or no agent acts, or the presentation is refused. -/
def step (s : State) : Host.Outcome State Fault Refusal :=
  match nextTurn s with
  | .perform i s' => exec i s'
  | .pass s' => .next s'
  | .refuse r => .refused r

/-- `s` with the operation of these bits laid down to be the next one performed (log entry 7). -/
def State.withFetchWord (s : State) (nbits w : Nat) : State := s.layDownWords (wordsOfBits nbits w)

end Sys2Proof.Machine
end

