-- ==== Sys2Proof/Safety.lean ====
section
/-! DEFINITION. The terms in which claims about the block speak: runs free of faults (R215), the invariant of its
registers, finite sequences of operations (R55, R215), services (R78), and the counts of R109 and R126. -/

namespace Sys2Proof.Machine

/-- No fault is recorded (R215): both sticky bits are 0. -/
def State.faultFree (s : State) : Bool := !s.status.ovr && !s.status.cfgerr

/-- What every operation keeps true of the registers: `CMP` is in its range (R27); `CFGERR` is set exactly when `ERRINFO`
holds a record, and an invalid record is all 0 (R29, R181); a tick is pending only once the timer was started (R120); an
overrun is recorded only of a started and armed block (R120, R129). -/
abbrev State.Inv (s : State) : Prop :=
  s.cmp.toNat < 2 ^ s.inst.params.cmpWidth ∧
  s.status.cfgerr = s.errinfo.valid ∧
  (s.errinfo.valid = false → s.errinfo = ⟨false, false, 0#14⟩) ∧
  (s.status.uif = true → s.ctrl.ten = true) ∧
  (s.status.ovr = true → s.ctrl.ten = true ∧ s.ctrl.uie = true)

/-- The state with a refused access recorded, as R181 writes it: `CFGERR` set, `ERRINFO` written if it was not valid. -/
def State.withRefusal (wr : Bool) (off : Offset) (s : State) : State :=
  { s with
    status := ⟨s.status.uif, s.status.ovr, true⟩
    errinfo := if s.errinfo.valid = true then s.errinfo else ⟨true, wr, off⟩ }

/-- A finite sequence of operations performed in order (R55), stopping at the first that does not complete. -/
def runOps : List Instr → State → Host.Outcome State Fault Refusal
  | [], s => .next s
  | i :: rest, s =>
    match exec i s with
    | .next t => runOps rest t
    | .fault f => .fault f
    | .refused r => .refused r

/-- `service*k` (R78): `k` ticks, each serviced within its period. -/
def serviceOps : Nat → List Instr
  | 0 => []
  | k + 1 => .tick :: .update :: serviceOps k

/-- The accumulator after `k` steps from `acc` with a constant tuning word (R107). -/
def phaseAfter (k : Nat) (acc tw : Word) : Word := BitVec.ofNat 32 (acc.toNat + k * tw.toNat)

/-- How often the accumulator wraps in `k` engine steps from `acc` (R109). -/
def wraps (tw : Word) : Nat → Word → Nat
  | 0, _ => 0
  | k + 1, acc => (if acc.toNat + tw.toNat < 2 ^ 32 then 0 else 1) + wraps tw k (phaseAdvance acc tw)

/-- How often an operation occurs in a sequence. -/
def opCount (i : Instr) (ops : List Instr) : Nat := (ops.filter fun j => decide (j = i)).length

/-- The merged ticks of a run: those that arrive while a tick is pending (R120, R126). -/
def mergedTicks : List Instr → State → Nat
  | [], _ => 0
  | i :: rest, s =>
    (if i = .tick ∧ s.status.uif = true then 1 else 0) +
      match exec i s with
      | .next t => mergedTicks rest t
      | .fault _ => 0
      | .refused _ => 0

/-- A run without end (R215): the operation performed at each point of the total order, or none where no agent acts. -/
def IsRun (sts : Nat → State) (op : Nat → Option Instr) : Prop :=
  ∀ n, match op n with
    | some i => exec i (sts n) = .next (sts (n + 1))
    | none => sts (n + 1) = sts n

/-- Weak fairness of the agent of `i` (R121, R128): an operation that stays enabled is performed at last. -/
def WeaklyFair (i : Instr) (sts : Nat → State) (op : Nat → Option Instr) : Prop :=
  ∀ n, (∀ m, n ≤ m → enabled i (sts m) = true) → ∃ m, n ≤ m ∧ op m = some i

/-- R109: the output frequency in Hz, `TICK_HZ * tw / 2^32`. No operation computes it. -/
def outputFrequency (p : Params) (tw : Word) : ℚ := p.tickHz * tw.toNat / 2 ^ 32

end Sys2Proof.Machine
end

