-- ==== Sys2Proof/Certificates/Slice0/Obligations.lean ====
section
/-! DEFINITION. The statements about the block, from the numbered rules of the spec. Every statement about a state is for
every instance (R7), every order of presentations and every value of the model's own fields. -/

open Sys2Proof Sys2Proof.Machine

/-! ### Bus reads -/

/-- R140, R23: RD_CTRL returns `TEN` in bit 0, `UIE` in bit 1 and 0 in every reserved bit, and changes nothing else. -/
def Obligations.ReadOfCtrlReturnsEnables : Prop :=
  ∀ (tb : Nat) (s : State), decode tb ⟨0x0000#16, none⟩ = .ok .rdCtrl ∧
    ∃ r : Word, exec .rdCtrl s = .next { s with returned := some r } ∧
      r.getLsbD 0 = s.ctrl.ten ∧ r.getLsbD 1 = s.ctrl.uie ∧ ∀ k, 2 ≤ k → r.getLsbD k = false

/-- R141, R24: RD_STATUS returns `UIF`, `OVR`, `CFGERR` in bits 0 to 2, 0 above, and clears none of them. -/
def Obligations.ReadOfStatusReturnsFlags : Prop :=
  ∀ (tb : Nat) (s : State), decode tb ⟨0x0004#16, none⟩ = .ok .rdStatus ∧
    ∃ r : Word, exec .rdStatus s = .next { s with returned := some r } ∧
      r.getLsbD 0 = s.status.uif ∧ r.getLsbD 1 = s.status.ovr ∧ r.getLsbD 2 = s.status.cfgerr ∧
      ∀ k, 3 ≤ k → r.getLsbD k = false

/-- R142: RD_TUNING returns the tuning word; once locked the value never changes until RESET. -/
def Obligations.ReadOfTuningReturnsIt : Prop :=
  ∀ (tb : Nat) (s : State), decode tb ⟨0x0008#16, none⟩ = .ok .rdTuning ∧
    exec .rdTuning s = .next { s with returned := some s.tuning } ∧
    ∀ (i : Instr) (t : State), s.locked = true → i ≠ .reset → exec i s = .next t → t.tuning = s.tuning

/-- R143: RD_PHASE returns the accumulator. -/
def Obligations.ReadOfPhaseReturnsIt : Prop :=
  ∀ (tb : Nat) (s : State), decode tb ⟨0x000C#16, none⟩ = .ok .rdPhase ∧
    exec .rdPhase s = .next { s with returned := some s.phase }

/-- R144, R27: RD_CMP returns `CMP[CMP_WIDTH-1:0]`, zeros above. -/
def Obligations.ReadOfCmpReturnsItsField : Prop :=
  ∀ (tb : Nat) (s : State), decode tb ⟨0x0010#16, none⟩ = .ok .rdCmp ∧
    ∃ r : Word, exec .rdCmp s = .next { s with returned := some r } ∧
      ∀ k, r.getLsbD k = (decide (k < s.inst.params.cmpWidth) && s.cmp.getLsbD k)

/-- R145, R28: RD_PARAM returns the parameters, each in its field, with no field overflowing
into the next; the word is constant for the instance and unchanged by every operation, RESET too. -/
def Obligations.ReadOfParamReturnsFields : Prop :=
  ∀ (tb : Nat) (s : State), decode tb ⟨0x0014#16, none⟩ = .ok .rdParam ∧
    ∃ r : Word, exec .rdParam s = .next { s with returned := some r } ∧
      r.toNat = s.inst.params.cmpWidth * 2 ^ 24 + s.inst.params.shift * 2 ^ 16 +
        (s.inst.params.sampleWidth % 32) * 2 ^ 8 + s.inst.params.tableBits ∧
      ∀ (i : Instr) (t : State), exec i s = .next t → t.regWord .param = r

/-- R147, R29: RD_ERRINFO returns `OFF` in bits 13:0, `WR` in bit 14, `VALID` in bit 31 and 0 between; it
returns 0 while no access has been refused since reset, and after several refusals it still holds the first. -/
def Obligations.ReadOfErrinfoReturnsRecord : Prop :=
  ∀ (tb : Nat) (s : State), decode tb ⟨0x0018#16, none⟩ = .ok .rdErrinfo ∧
    ∃ r : Word, exec .rdErrinfo s = .next { s with returned := some r } ∧
      (∀ k, k < 14 → r.getLsbD k = s.errinfo.off.getLsbD k) ∧ r.getLsbD 14 = s.errinfo.wr ∧
      (∀ k, 15 ≤ k → k ≤ 30 → r.getLsbD k = false) ∧ r.getLsbD 31 = s.errinfo.valid ∧
      (s.errinfo = (State.initial s.inst).errinfo → r = 0#32) ∧
      ∀ (i : Instr) (t : State), s.errinfo.valid = true → i ≠ .reset → exec i s = .next t → t.regWord .errinfo = r

/-- R148: the word `0x1000 + 4*i`, `i < TABLE_SIZE`, reads `WAVE_TABLE[i]`, zero-extended; the entry is the
same after every operation, RESET too. -/
def Obligations.ReadOfTableReturnsEntry : Prop :=
  ∀ (s : State) (i : BitVec 10), i.toNat < s.inst.params.tableSize →
    decode s.inst.params.tableBits ⟨BitVec.ofNat 16 (0x1000 + 4 * i.toNat), none⟩ = .ok (.rdTable i) ∧
    ∃ x : Sample, s.inst.params.waveTable[i.toNat]? = some x ∧
      exec (.rdTable i) s = .next { s with returned := some (x.setWidth 32) } ∧
      ∀ (j : Instr) (t : State), exec j s = .next t → t.inst.params.waveTable[i.toNat]? = some x

/-- R149, R53, R181: a read of an offset that is not mapped decodes as RD_REFUSED, returns 0, sets `CFGERR` and is
recorded if no access was; nothing else changes. -/
def Obligations.ReadOfUnmappedIsRefused : Prop :=
  ∀ (s : State) (off : Offset), mappedOffset s.inst.params.tableBits off = false →
    decode s.inst.params.tableBits ⟨BitVec.ofNat 16 off.toNat, none⟩ = .ok (.rdRefused off) ∧
    exec (.rdRefused off) s = .next { s with
      returned := some 0#32
      status := ⟨s.status.uif, s.status.ovr, true⟩
      errinfo := if s.errinfo.valid = true then s.errinfo else ⟨true, false, off⟩ }

/-- R53, R54: whatever a read's offset, a mapped read returns the word that the register space holds there and changes
nothing, and any other read returns 0 and records the refusal. -/
def Obligations.EveryReadFollowsTheMap : Prop :=
  ∀ (s : State) (off : Offset) (i : Instr),
    decode s.inst.params.tableBits ⟨formatWord 0b00#2 off, none⟩ = .ok i →
    exec i s = .next (if mappedOffset s.inst.params.tableBits off = true
      then { s with returned := some (s.spaceWord off) }
      else { s with returned := some 0#32 }.withRefusal false off)

/-! ### Bus writes -/

/-- R146: WR_CTRL takes `D[0]` and `D[1]` as the new `TEN` and `UIE` and ignores the rest of `D`, unless that would clear a
set bit: then the whole write is refused at offset `0x000`. -/
def Obligations.WriteOfCtrlOnlySets : Prop :=
  ∀ (tb : Nat) (s : State) (d : Word), decode tb ⟨0x4000#16, some d⟩ = .ok (.wrCtrl d) ∧
    exec (.wrCtrl d) s = .next
      (if (s.ctrl.ten = true ∧ d.getLsbD 0 = false) ∨ (s.ctrl.uie = true ∧ d.getLsbD 1 = false)
        then s.withRefusal true 0x000#14
        else { s with ctrl := ⟨d.getLsbD 0, d.getLsbD 1⟩ })

/-- R150: WR_TUNING writes every 32-bit value while unlocked and is refused at `0x008` once locked. -/
def Obligations.WriteOfTuningWhileUnlocked : Prop :=
  ∀ (tb : Nat) (s : State) (d : Word), decode tb ⟨0x4008#16, some d⟩ = .ok (.wrTuning d) ∧
    exec (.wrTuning d) s = .next
      (if s.ctrl.ten = true ∨ s.ctrl.uie = true then s.withRefusal true 0x008#14 else { s with tuning := d })

/-- R151: WR_PHASE writes every 32-bit value while unlocked and is refused at `0x00C` once locked. -/
def Obligations.WriteOfPhaseWhileUnlocked : Prop :=
  ∀ (tb : Nat) (s : State) (d : Word), decode tb ⟨0x400C#16, some d⟩ = .ok (.wrPhase d) ∧
    exec (.wrPhase d) s = .next
      (if s.ctrl.ten = true ∨ s.ctrl.uie = true then s.withRefusal true 0x00C#14 else { s with phase := d })

/-- R152: WR_CMP writes a value in the compare range while unlocked, and is refused at `0x010` once locked or when
`D >= 2^CMP_WIDTH`. -/
def Obligations.WriteOfCmpInRangeWhileUnlocked : Prop :=
  ∀ (tb : Nat) (s : State) (d : Word), decode tb ⟨0x4010#16, some d⟩ = .ok (.wrCmp d) ∧
    exec (.wrCmp d) s = .next
      (if (s.ctrl.ten = true ∨ s.ctrl.uie = true) ∨ 2 ^ s.inst.params.cmpWidth ≤ d.toNat
        then s.withRefusal true 0x010#14 else { s with cmp := d })

/-- R153: a write whose word is none of `0x4000`, `0x4008`, `0x400C`, `0x4010` decodes as WR_REFUSED, changes no register
and records the refusal. -/
def Obligations.WriteElsewhereIsRefused : Prop :=
  ∀ (tb : Nat) (s : State) (off : Offset) (d : Word), writableOffset off = false →
    decode tb ⟨BitVec.ofNat 16 (0x4000 + off.toNat), some d⟩ = .ok (.wrRefused off d) ∧
    exec (.wrRefused off d) s = .next (s.withRefusal true off)

/-! ### Events -/

/-- R120: TICK sets `UIF`, and `OVR` too when a tick was pending and the block is armed; nothing else changes.
Only the timer agent presents it. -/
def Obligations.TickSetsPendingAndOverrun : Prop :=
  ∀ (tb : Nat) (s : State), s.ctrl.ten = true →
    decode tb ⟨0x8000#16, none⟩ = .ok .tick ∧ agentOf .tick = .timer ∧
    exec .tick s = .next { s with
      status := ⟨true, if s.status.uif = true ∧ s.ctrl.uie = true then true else s.status.ovr, s.status.cfgerr⟩ }

/-- Derived from R120 ("While `CTRL.TEN = 0` the timer does not run and TICK never occurs"): the model refuses a TICK exactly
then (DESIGN CHOICE: that a presented one is refused, log entry 6). -/
def Obligations.TickNeverOccursWhileStopped : Prop :=
  ∀ s : State, exec .tick s = .refused .tickNotEnabled ↔ s.ctrl.ten = false

/-- R124: UPDATE publishes one engine step and clears `UIF`; `OVR`, `CFGERR`, `ERRINFO` and `CTRL` are unchanged.
Only the engine agent presents it. -/
def Obligations.UpdatePublishesOneEngineStep : Prop :=
  ∀ (tb : Nat) (s : State), s.status.uif = true → s.ctrl.uie = true →
    decode tb ⟨0x8001#16, none⟩ = .ok .update ∧ agentOf .update = .engine ∧
    exec .update s = .next { s with
      phase := (engine s.inst.params s.phase s.tuning).1
      cmp := (engine s.inst.params s.phase s.tuning).2
      status := ⟨false, s.status.ovr, s.status.cfgerr⟩ }

/-- Derived from R124 and R129 ("UPDATE is enabled exactly when a tick is pending" once armed): the model refuses an UPDATE
exactly when it is not enabled (DESIGN CHOICE: that a presented one is refused, log entry 6). -/
def Obligations.UpdateNeedsPendingAndArmed : Prop :=
  ∀ s : State, exec .update s = .refused .updateNotEnabled ↔ ¬(s.status.uif = true ∧ s.ctrl.uie = true)

/-- R200: RESET gives every register its reset value, whatever the state; the instance's constants stay.
Only the environment presents it. -/
def Obligations.ResetRestoresEveryRegister : Prop :=
  ∀ (tb : Nat) (s : State), decode tb ⟨0x8002#16, none⟩ = .ok .reset ∧ agentOf .reset = .environment ∧
    exec .reset s = .next { s with
      ctrl := ⟨false, false⟩
      status := ⟨false, false, false⟩
      errinfo := ⟨false, false, 0#14⟩
      tuning := s.inst.params.tuningInit
      phase := s.inst.params.phaseInit
      cmp := 0#32 }

/-- R201: the registers of the reset state, every one; R9's reference values for `TUNING` and `PHASE`. -/
def Obligations.ResetStateHoldsResetValues : Prop :=
  (∀ inst : Instance,
    (State.initial inst).ctrl = ⟨false, false⟩ ∧ (State.initial inst).status = ⟨false, false, false⟩ ∧
    (State.initial inst).errinfo = ⟨false, false, 0#14⟩ ∧ (State.initial inst).tuning = inst.params.tuningInit ∧
    (State.initial inst).phase = inst.params.phaseInit ∧ (State.initial inst).cmp = 0#32 ∧
    (State.initial inst).inst = inst) ∧
  State.reset.tuning = 0x10624DD2#32 ∧ State.reset.phase = 0#32

/-! ### The engine -/

/-- R104, with R100 to R103: ENGINE advances modulo `2^32`, indexes by the advanced value's top bits, looks up and
widens. -/
def Obligations.EngineAdvancesIndexesLooksUpWidens : Prop :=
  ∀ (inst : Instance) (acc tw : Word),
    (engine inst.params acc tw).1.toNat = (acc.toNat + tw.toNat) % 2 ^ 32 ∧
    ∃ x : Sample,
      inst.params.waveTable[(acc.toNat + tw.toNat) % 2 ^ 32 / 2 ^ (32 - inst.params.tableBits)]? = some x ∧
      (engine inst.params acc tw).2.toNat = x.toNat * 2 ^ inst.params.shift

/-- R106: the index lies in the table for every accumulator value. -/
def Obligations.IndexStaysInTable : Prop :=
  ∀ (inst : Instance) (acc : Word), tableIndex inst.params acc < inst.params.tableSize

/-- R103: for every sample of the table the widened value is the sample times `2^SHIFT`, fits in `CMP_WIDTH` bits, and has
its low `SHIFT` bits 0. -/
def Obligations.WideningLosesNoBit : Prop :=
  ∀ (inst : Instance) (x : Sample), x ∈ inst.params.waveTable →
    (widen inst.params x).toNat = x.toNat * 2 ^ inst.params.shift ∧
    (widen inst.params x).toNat < 2 ^ inst.params.cmpWidth ∧
    ∀ k, k < inst.params.shift → (widen inst.params x).getLsbD k = false

/-- R107: from a started and armed block with nothing pending, `k` services (`k >= 1`) leave
`PHASE = (acc_0 + k * tw) mod 2^32` and `CMP` the value of the entry that its top bits select; `UIF` is 0 again and nothing
else changes: no overrun is recorded. -/
def Obligations.ServicesReachClosedForm : Prop :=
  ∀ (s : State) (k : Nat), s.ctrl.ten = true → s.ctrl.uie = true → s.status.uif = false → 1 ≤ k →
    ∃ x : Sample,
      s.inst.params.waveTable[(s.phase.toNat + k * s.tuning.toNat) % 2 ^ 32 / 2 ^ (32 - s.inst.params.tableBits)]? = some x ∧
      runOps (serviceOps k) s = .next { s with
        phase := BitVec.ofNat 32 (s.phase.toNat + k * s.tuning.toNat)
        cmp := BitVec.ofNat 32 (x.toNat * 2 ^ s.inst.params.shift) }

/-- R112: with `tw = 2^(32 - TABLE_BITS)` from phase 0, the `k`-th of `TABLE_SIZE` services publishes entry
`k mod TABLE_SIZE`, and the last wraps the accumulator to 0. -/
def Obligations.FullCycleVisitsEveryIndex : Prop :=
  ∀ (s : State) (k : Nat), s.ctrl.ten = true → s.ctrl.uie = true → s.status.uif = false →
    s.phase = 0#32 → s.tuning.toNat = 2 ^ (32 - s.inst.params.tableBits) → 1 ≤ k → k ≤ s.inst.params.tableSize →
    ∃ (x : Sample) (t : State), runOps (serviceOps k) s = .next t ∧
      s.inst.params.waveTable[k % s.inst.params.tableSize]? = some x ∧
      t.cmp.toNat = x.toNat * 2 ^ s.inst.params.shift ∧
      tableIndex s.inst.params t.phase = k % s.inst.params.tableSize ∧
      (k = s.inst.params.tableSize → t.phase = 0#32)

/-- R108: what `k` services publish depends on `PHASE`, `TUNING` and the instance alone. -/
def Obligations.PublishedValuesAreDetermined : Prop :=
  ∀ (s t : State) (k : Nat), 1 ≤ k →
    s.ctrl.ten = true → s.ctrl.uie = true → s.status.uif = false →
    t.ctrl.ten = true → t.ctrl.uie = true → t.status.uif = false →
    s.inst = t.inst → s.phase = t.phase → s.tuning = t.tuning →
    ∃ s' t' : State, runOps (serviceOps k) s = .next s' ∧ runOps (serviceOps k) t = .next t' ∧
      s'.cmp = t'.cmp ∧ s'.phase = t'.phase

/-- R109: over any `k` engine steps the wraps count the turns of the unwrapped phase, so `2^32` steps wrap exactly `tw`
times; the output frequency is that rate times the tick rate. -/
def Obligations.WrapsGiveTheFrequency : Prop :=
  (∀ (tw acc : Word) (k : Nat), wraps tw k acc = (acc.toNat + k * tw.toNat) / 2 ^ 32) ∧
  ∀ (p : Params) (tw acc : Word), wraps tw (2 ^ 32) acc = tw.toNat ∧
    outputFrequency p tw = p.tickHz * (wraps tw (2 ^ 32) acc : ℚ) / 2 ^ 32

/-- R110: the reference frequency, and that `0x10624DD2` is the truncation of the ideal tuning word for 1000 Hz. -/
def Obligations.ReferenceFrequencyIsExact : Prop :=
  outputFrequency Params.reference 0x10624DD2#32 = 2147483640625 / 2147483648 ∧
  (0x10624DD2#32).toNat = 1000 * 2 ^ 32 / Params.reference.tickHz ∧
  ¬Params.reference.tickHz ∣ 1000 * 2 ^ 32

/-! ### Encoding -/

/-- R70 to R74: decoding the words of a well-formed operation gives it back, every operand at every value. -/
def Obligations.DecodeOfEncodeIsIdentity : Prop :=
  ∀ (tb : Nat) (i : Instr), tb ≤ 10 → i.wf tb = true → decode tb (encode i) = .ok i

/-- R74: the words that decode to an operation are the ones that encode it, and what is decoded is well formed: each word
has one meaning. -/
def Obligations.DecodedWordsAreTheEncoding : Prop :=
  ∀ (tb : Nat) (op : OpWords) (i : Instr), tb ≤ 10 → decode tb op = .ok i → encode i = op ∧ i.wf tb = true

/-- R75: the words from `0x8003` on spell no operation, with or without data, and the step that meets one is refused and
gives no state; every word below `0x8003` spells an operation with the operand its class has. -/
def Obligations.ReservedWordsAreRefused : Prop :=
  (∀ (tb : Nat) (w : OpWord) (d : Option Word), 0x8003 ≤ w.toNat → decode tb ⟨w, d⟩ = .error (.reservedWord w)) ∧
  (∀ (s : State) (a : Agent) (w : OpWord) (d : Option Word) (rest : List Presentation), 0x8003 ≤ w.toNat →
    s.pending = ⟨a, ⟨w, d⟩⟩ :: rest → step s = .refused (.reservedWord w)) ∧
  ∀ (tb : Nat) (w : OpWord) (d : Word), w.toNat < 0x8003 →
    ∃ i : Instr, decode tb ⟨w, if 0x4000 ≤ w.toNat ∧ w.toNat < 0x8000 then some d else none⟩ = .ok i

/-- Words written out from R74, one of each format and class. -/
def Obligations.SpecWordsDecode : Prop :=
  decode 8 ⟨0x0018#16, none⟩ = .ok .rdErrinfo ∧
  decode 8 ⟨0x1040#16, none⟩ = .ok (.rdTable 16#10) ∧
  decode 8 ⟨0x1400#16, none⟩ = .ok (.rdRefused 0x1400#14) ∧
  decode 8 ⟨0x4010#16, some 0xFFFF#32⟩ = .ok (.wrCmp 0xFFFF#32) ∧
  decode 8 ⟨0x5040#16, some 0#32⟩ = .ok (.wrRefused 0x1040#14 0#32) ∧
  decode 8 ⟨0x8001#16, none⟩ = .ok .update

/-! ### Steps and agents -/

/-- A step runs the decoded operation: when the oldest presentation decodes to `i` and comes from the agent that may
present it, the step is `exec i` on the state with that presentation taken and the last returned value gone. -/
def Obligations.StepRunsTheDecodedOperation : Prop :=
  ∀ (s : State) (p : Presentation) (rest : List Presentation) (i : Instr), s.pending = p :: rest →
    decode s.inst.params.tableBits p.op = .ok i → agentOf i = p.agent →
    step s = exec i { s with pending := rest, returned := none }

/-- R76: bus operations come only from the setup agent, TICK only from the timer agent, UPDATE only from the engine agent,
RESET only from the environment; an operation presented by another agent is refused. -/
def Obligations.AgentsPresentTheirClassOnly : Prop :=
  (∀ i : Instr, agentOf i =
    if i = .tick then .timer else if i = .update then .engine else if i = .reset then .environment else .setup) ∧
  ∀ (s : State) (p : Presentation) (rest : List Presentation) (i : Instr), s.pending = p :: rest →
    decode s.inst.params.tableBits p.op = .ok i → agentOf i ≠ p.agent → step s = .refused (.wrongAgent p.agent)

/-- Derived from R15 and R55: where nothing is laid down, the step always goes on: an agent performs an enabled operation
of its own, or none acts. This is for every value of the free order `Config.freePresentation` (log entry 5). -/
def Obligations.FreeTurnTakesAnEnabledStep : Prop :=
  ∀ s : State, s.pending = [] →
    step s = .next { s with turn := s.turn + 1, returned := none } ∨
    ∃ (i : Instr) (t : State), step s = .next t ∧ enabled i s = true ∧
      exec i { s with turn := s.turn + 1, returned := none } = .next t ∧
      decode s.inst.params.tableBits (Config.freePresentation s.turn).op = .ok i ∧
      agentOf i = (Config.freePresentation s.turn).agent

/-- Derived from R13, R120, R124: an operation completes exactly when it is enabled; nothing else stops one. -/
def Obligations.OperationCompletesIffEnabled : Prop :=
  ∀ (i : Instr) (s : State), (∃ t, exec i s = .next t) ↔ enabled i s = true

/-! ### Invariants and whole-machine rules -/

/-- The invariant `State.Inv` of R27, R29, R120, R129, R181 is kept by every step from every state that meets it. -/
def Obligations.EveryStepKeepsInvariant : Prop :=
  ∀ s t : State, s.Inv → step s = .next t → t.Inv

/-- The state after reset meets the invariant, for every instance and for the reference instance. -/
def Obligations.ResetMeetsInvariant : Prop :=
  (∀ inst : Instance, (State.initial inst).Inv) ∧ State.reset.Inv

/-- R30: no step changes the instance: the table and the parameters are the same after every operation, RESET too. -/
def Obligations.TableAndParametersNeverChange : Prop :=
  ∀ s t : State, step s = .next t → t.inst = s.inst

/-- R34, R127: once locked, no operation but UPDATE (and RESET, which unlocks) changes `PHASE` or `CMP`. -/
def Obligations.LockedOutputsOnlyUpdated : Prop :=
  ∀ (i : Instr) (s t : State), s.locked = true → i ≠ .update → i ≠ .reset → exec i s = .next t →
    t.phase = s.phase ∧ t.cmp = s.cmp

/-- R25: `TUNING` is changed only by WR_TUNING while unlocked, and by RESET. -/
def Obligations.TuningChangesOnlyByItsWrite : Prop :=
  ∀ (i : Instr) (s t : State), exec i s = .next t → t.tuning ≠ s.tuning →
    i = .reset ∨ (s.locked = false ∧ i = .wrTuning t.tuning)

/-- R23, R129: only RESET returns an enable to 0. -/
def Obligations.EnablesClearOnlyByReset : Prop :=
  ∀ (i : Instr) (s t : State), i ≠ .reset → exec i s = .next t →
    (s.ctrl.ten = true → t.ctrl.ten = true) ∧ (s.ctrl.uie = true → t.ctrl.uie = true)

/-- R181: fault bits are cleared only by RESET, which clears both. -/
def Obligations.FaultBitsClearOnlyByReset : Prop :=
  ∀ (i : Instr) (s t : State), exec i s = .next t →
    (i ≠ .reset → (s.status.ovr = true → t.status.ovr = true) ∧ (s.status.cfgerr = true → t.status.cfgerr = true)) ∧
    (i = .reset → t.status = ⟨false, false, false⟩)

/-- R29, R181: `ERRINFO` once valid is not written again until RESET, and an operation that writes it records its own access
as valid: `WR` is 1 exactly if its word is a write's, `OFF` is its word's offset field (R71, R72); `CFGERR` is then set. -/
def Obligations.FirstRefusalIsKept : Prop :=
  ∀ (i : Instr) (s t : State), i ≠ .reset → exec i s = .next t →
    (s.errinfo.valid = true → t.errinfo = s.errinfo) ∧
    (t.errinfo ≠ s.errinfo →
      t.errinfo = ⟨true, decide (classField (encode i).word = 0b01#2), lowField (encode i).word⟩ ∧ t.status.cfgerr = true)

/-- R184: a pending tick is cleared only by UPDATE or RESET, and set only by TICK. -/
def Obligations.PendingTickClearsOnlyByService : Prop :=
  ∀ (i : Instr) (s t : State), exec i s = .next t →
    (s.status.uif = true → t.status.uif = false → i = .update ∨ i = .reset) ∧
    (s.status.uif = false → t.status.uif = true → i = .tick)

/-- R180: `OVR` is newly set only by a TICK in an armed block with a tick pending; `CFGERR` is newly set only by a refused
bus access: of RD_REFUSED's or WR_REFUSED's own, or of WR_CTRL, WR_TUNING, WR_PHASE or WR_CMP that leaves every register but
`STATUS` and `ERRINFO` as it was. -/
def Obligations.FaultsComeFromTheirCauses : Prop :=
  ∀ (tb : Nat) (i : Instr) (s t : State), tb = s.inst.params.tableBits → i.wf tb = true → exec i s = .next t →
    (s.status.ovr = false → t.status.ovr = true → i = .tick ∧ s.status.uif = true ∧ s.ctrl.uie = true) ∧
    (s.status.cfgerr = false → t.status.cfgerr = true →
      ((∃ off, i = .rdRefused off) ∨ (∃ off d, i = .wrRefused off d) ∨ (∃ d, i = .wrCtrl d) ∨
        (∃ d, i = .wrTuning d) ∨ (∃ d, i = .wrPhase d) ∨ (∃ d, i = .wrCmp d)) ∧
      t.ctrl = s.ctrl ∧ t.tuning = s.tuning ∧ t.phase = s.phase ∧ t.cmp = s.cmp)

/-- R185: where TICK and UPDATE are both enabled either may occur first; TICK first raises OVR, UPDATE first does not, and
the tick after it does not either. A single operation raises at most one fault; a refused WR_CMP that is both locked and
out of range records one CFGERR with `OFF = 0x010`. -/
def Obligations.EitherOrderAdmittedOneFaultEach : Prop :=
  (∀ s : State, s.ctrl.ten = true → s.status.uif = true → s.ctrl.uie = true →
    ∃ t u v w : State, exec .tick s = .next t ∧ exec .update t = .next u ∧ exec .update s = .next v ∧
      exec .tick v = .next w ∧ t.status.ovr = true ∧ u.status.ovr = true ∧ v.status.ovr = s.status.ovr ∧
      w.status.ovr = s.status.ovr ∧ u.phase = v.phase ∧ w.phase = v.phase) ∧
  (∀ (i : Instr) (s t : State), exec i s = .next t →
    ¬((s.status.ovr = false ∧ t.status.ovr = true) ∧ (s.status.cfgerr = false ∧ t.status.cfgerr = true))) ∧
  ∀ (s : State) (d : Word), s.locked = true → 2 ^ s.inst.params.cmpWidth ≤ d.toNat → s.errinfo.valid = false →
    exec (.wrCmp d) s = .next { s with
      status := ⟨s.status.uif, s.status.ovr, true⟩
      errinfo := ⟨true, true, 0x010#14⟩ }

/-- R132: over a run without RESET that ends with the timer not started, no TICK occurs; over one that ends not armed, or
not started with nothing pending at its start, no UPDATE occurs, `OVR` is not raised, and `PHASE` and `CMP` keep the values
that setup gave them. (The enables are set-only, so a run that ends so was so throughout.) -/
def Obligations.SilenceWhileNotStartedOrNotArmed : Prop :=
  ∀ (s t : State) (ops : List Instr), .reset ∉ ops → runOps ops s = .next t →
    (t.ctrl.ten = false → .tick ∉ ops) ∧
    (t.ctrl.uie = false ∨ (t.ctrl.ten = false ∧ s.status.uif = false) →
      .update ∉ ops ∧ t.status.ovr = s.status.ovr ∧
      ((∀ d, .wrPhase d ∉ ops) → t.phase = s.phase) ∧ ((∀ d, .wrCmp d ∉ ops) → t.cmp = s.cmp))

/-- R121, R128: in a run without RESET of a started and armed block that is fair to the timer agent and to the engine agent,
TICK and UPDATE each occur again and again. -/
def Obligations.FairRunsTickAndUpdateForever : Prop :=
  ∀ (sts : Nat → State) (op : Nat → Option Instr), IsRun sts op → (∀ n, op n ≠ some .reset) →
    WeaklyFair .tick sts op → WeaklyFair .update sts op → (sts 0).ctrl.ten = true → (sts 0).ctrl.uie = true →
    ∀ n, (∃ m, n ≤ m ∧ op m = some .tick) ∧ ∃ m, n ≤ m ∧ op m = some .update

/-- R184, D33: a tick that is pending when `UIE` is set is serviced: after the arming write UPDATE completes at once. -/
def Obligations.ArmingServicesPendingTick : Prop :=
  ∀ s : State, s.ctrl.ten = true → s.ctrl.uie = false → s.status.uif = true →
    runOps [.wrCtrl 3#32, .update] s = .next { s with
      ctrl := ⟨true, true⟩
      phase := (engine s.inst.params s.phase s.tuning).1
      cmp := (engine s.inst.params s.phase s.tuning).2
      status := ⟨false, s.status.ovr, s.status.cfgerr⟩ }

/-- R124, R187: after an UPDATE no operations but ones with a TICK among them enable the next UPDATE. -/
def Obligations.NoUpdateWithoutANewTick : Prop :=
  ∀ (s t u : State) (ops : List Instr), exec .update s = .next t → .tick ∉ ops → runOps ops t = .next u →
    enabled .update u = false ∧ exec .update u = .refused .updateNotEnabled

/-- R126: over a run without RESET that starts with nothing pending, the UPDATEs are the TICKs less the merged ones, less
one if a tick is pending at the end. -/
def Obligations.UpdatesCountUnmergedTicks : Prop :=
  ∀ (s t : State) (ops : List Instr), s.status.uif = false → .reset ∉ ops → runOps ops s = .next t →
    opCount .update ops + mergedTicks ops s + (if t.status.uif = true then 1 else 0) = opCount .tick ops

/-- R203: from an unlocked block the three configuration writes, in any order, then arming, leave the configuration that was
written, with no fault raised. -/
def Obligations.ConfigurationOrderIsFree : Prop :=
  ∀ (s : State) (T P C : Word) (ops : List Instr), s.locked = false → C.toNat < 2 ^ s.inst.params.cmpWidth →
    ops.Perm [.wrTuning T, .wrPhase P, .wrCmp C] →
    runOps (ops ++ [.wrCtrl 3#32]) s = .next { s with tuning := T, phase := P, cmp := C, ctrl := ⟨true, true⟩ }

/-- R8: a parameter set that is not well formed makes no instance, and a well-formed one makes its own. -/
def Obligations.IllFormedParametersAreRefused : Prop :=
  ∀ p : Params,
    (Instance.ofParams p = none ↔
      ¬((1 ≤ p.tableBits ∧ p.tableBits ≤ 10) ∧ (1 ≤ p.sampleWidth ∧ p.sampleWidth ≤ 16) ∧ p.shift ≤ 31 ∧
        (p.sampleWidth + p.shift ≤ p.cmpWidth ∧ p.cmpWidth ≤ 32) ∧ p.waveTable.length = 2 ^ p.tableBits ∧
        ∀ x ∈ p.waveTable, x.toNat < 2 ^ p.sampleWidth)) ∧
    ∀ inst : Instance, Instance.ofParams p = some inst → inst.params = p

/-! ### Frames over the bytes of the register space -/

/-- R52, R51: byte lane `k` of a mapped word carries its bits `[8k+7:8k]`, at host address `DDS_BASE + offset + k`. -/
def Obligations.HostBytesAreLittleEndianLanes : Prop :=
  ∀ (s : State) (off : Offset) (k j : Nat), off.toNat % 4 = 0 → k < 4 → j < 8 →
    ∃ b : Byte, s.hostByte (s.inst.params.ddsBase + off.toNat + k) = some b ∧
      b.getLsbD j = (s.spaceWord off).getLsbD (8 * k + j)

/-- Frame of the reads RD_CTRL, RD_STATUS, RD_TUNING, RD_PHASE, RD_CMP, RD_PARAM, RD_ERRINFO and RD_TABLE (R54): every
register, and every byte of the register space, reads as before. -/
def Obligations.ReadsChangeNoByte : Prop :=
  ∀ (i : Instr) (s t : State),
    (i ∈ [.rdCtrl, .rdStatus, .rdTuning, .rdPhase, .rdCmp, .rdParam, .rdErrinfo] ∨
      ∃ k : BitVec 10, i = .rdTable k ∧ k.toNat < s.inst.params.tableSize) →
    exec i s = .next t →
    t.inst = s.inst ∧ t.ctrl = s.ctrl ∧ t.status = s.status ∧ t.tuning = s.tuning ∧ t.phase = s.phase ∧ t.cmp = s.cmp ∧
    t.errinfo = s.errinfo ∧ t.pending = s.pending ∧ t.turn = s.turn ∧ ∀ a : Offset, t.spaceByte a = s.spaceByte a

/-- Frame of the register writes WR_CTRL, WR_TUNING, WR_PHASE and WR_CMP (R54, R181): every byte of the register space
outside the written register's word, `STATUS` and `ERRINFO` reads as before, and a write that raises no CFGERR leaves
`STATUS` and `ERRINFO` too. -/
def Obligations.WritesChangeOnlyTheirWord : Prop :=
  ∀ (i : Instr) (r : Reg) (d : Word) (s t : State),
    (i, r) ∈ [(Instr.wrCtrl d, Reg.ctrl), (.wrTuning d, .tuning), (.wrPhase d, .phase), (.wrCmp d, .cmp)] →
    exec i s = .next t →
    (∀ a : Offset, a.toNat / 4 ≠ (regOffset r).toNat / 4 → a.toNat / 4 ≠ 0x004 / 4 → a.toNat / 4 ≠ 0x018 / 4 →
      t.spaceByte a = s.spaceByte a) ∧
    (t.status.cfgerr = false → t.status = s.status ∧ t.errinfo = s.errinfo) ∧
    t.inst = s.inst ∧ t.returned = s.returned ∧ t.pending = s.pending ∧ t.turn = s.turn

/-- Frame of the refused accesses RD_REFUSED and WR_REFUSED (R181): every byte outside `STATUS` and `ERRINFO` reads as
before, and so do `UIF` and `OVR`. -/
def Obligations.RefusalsChangeOnlyTheRecord : Prop :=
  ∀ (i : Instr) (off : Offset) (d : Word) (s t : State), i ∈ [.rdRefused off, .wrRefused off d] → exec i s = .next t →
    (∀ a : Offset, a.toNat / 4 ≠ 0x004 / 4 → a.toNat / 4 ≠ 0x018 / 4 → t.spaceByte a = s.spaceByte a) ∧
    t.status.uif = s.status.uif ∧ t.status.ovr = s.status.ovr ∧
    t.inst = s.inst ∧ t.pending = s.pending ∧ t.turn = s.turn

/-- Frame of the events TICK, UPDATE and RESET (R120, R124, R200): TICK changes no byte outside `STATUS`, UPDATE none outside
`STATUS`, `PHASE` and `CMP`, RESET none of `PARAM` and of the table window. -/
def Obligations.EventsChangeOnlyTheirWords : Prop :=
  (∀ (s t : State), exec .tick s = .next t →
    (∀ a : Offset, a.toNat / 4 ≠ 0x004 / 4 → t.spaceByte a = s.spaceByte a) ∧ t.status.cfgerr = s.status.cfgerr) ∧
  (∀ (s t : State), exec .update s = .next t →
    ∀ a : Offset, a.toNat / 4 ≠ 0x004 / 4 → a.toNat / 4 ≠ 0x00C / 4 → a.toNat / 4 ≠ 0x010 / 4 →
      t.spaceByte a = s.spaceByte a) ∧
  ∀ (s t : State), exec .reset s = .next t →
    ∀ a : Offset, a.toNat / 4 = 0x014 / 4 ∨ 0x1000 ≤ a.toNat → t.spaceByte a = s.spaceByte a
end

