-- ==== Sys2Proof/Laws/Decode.lean ====
section
/-! SUPPORT. The fields of operation words and offsets (R71, R72), and where the register map (R22) and the table window
lie. -/

namespace Sys2Proof

/-- A word as a number (R71). -/
theorem formatWord_toNat (cls : BitVec 2) (low : BitVec 14) :
    (formatWord cls low).toNat = cls.toNat * 2 ^ 14 + low.toNat := by
  rw [formatWord, BitVec.toNat_append, Nat.shiftLeft_eq, Nat.mul_comm,
    Nat.two_pow_add_eq_or_of_lt low.isLt]

/-- The class field as a number (R71). -/
theorem classField_toNat (w : OpWord) : (classField w).toNat = w.toNat / 2 ^ 14 := by
  have := w.isLt
  simp only [classField, BitVec.extractLsb'_toNat, Nat.shiftRight_eq_div_pow]
  omega

/-- The low field as a number (R71). -/
theorem lowField_toNat (w : OpWord) : (lowField w).toNat = w.toNat % 2 ^ 14 := by
  simp [lowField, BitVec.extractLsb'_toNat]

/-- The class field of a word made from its fields (R71). -/
@[simp] theorem classField_formatWord (cls : BitVec 2) (low : BitVec 14) : classField (formatWord cls low) = cls := by
  have := low.isLt
  apply BitVec.eq_of_toNat_eq
  rw [classField_toNat, formatWord_toNat]
  omega

/-- The low field of a word made from its fields (R71). -/
@[simp] theorem lowField_formatWord (cls : BitVec 2) (low : BitVec 14) : lowField (formatWord cls low) = low := by
  have := low.isLt
  apply BitVec.eq_of_toNat_eq
  rw [lowField_toNat, formatWord_toNat]
  omega

/-- A word is made of its class field and its low field (R71). -/
@[simp] theorem formatWord_fields (w : OpWord) : formatWord (classField w) (lowField w) = w := by
  apply BitVec.eq_of_toNat_eq
  rw [formatWord_toNat, classField_toNat, lowField_toNat]
  omega

/-- The offset of a table entry as a number, `0x1000 + 4*i` (R22). -/
theorem tableOffset_toNat (i : BitVec 10) : (tableOffset i).toNat = 0x1000 + 4 * i.toNat := by
  have hi := i.isLt
  have h : (0b01#2 ++ i ++ 0b00#2).toNat = ((1 * 2 ^ 10 + i.toNat) * 2 ^ 2 + 0) := by
    rw [BitVec.toNat_append, BitVec.toNat_append, Nat.shiftLeft_eq, Nat.shiftLeft_eq,
      Nat.mul_comm _ (2 ^ 10), ← Nat.two_pow_add_eq_or_of_lt hi, Nat.mul_comm _ (2 ^ 2),
      ← Nat.two_pow_add_eq_or_of_lt (by decide)]
    simp
    omega
  rw [tableOffset, h]
  omega

/-- The index field of a table entry's offset (R72). -/
@[simp] theorem tableIndexField_tableOffset (i : BitVec 10) : tableIndexField (tableOffset i) = i := by
  apply BitVec.eq_of_toNat_eq
  have := i.isLt
  simp only [tableIndexField, BitVec.extractLsb'_toNat, tableOffset_toNat, Nat.shiftRight_eq_div_pow]
  omega

/-- The bit-field test of R72 is the address test of R53, for an aligned offset past `0x1000`. -/
theorem inTableWindow_iff (tb : Nat) (off : Offset) (h : tb ≤ 10) :
    inTableWindow tb off = true ↔
      off.toNat % 4 = 0 ∧ 0x1000 ≤ off.toNat ∧ off.toNat < 0x1000 + 4 * 2 ^ tb := by
  have ho := off.isLt
  have hp : 2 ^ tb ≤ 2 ^ 10 := Nat.pow_le_pow_right (by decide) h
  simp only [inTableWindow, tableIndexField, Bool.and_eq_true, decide_eq_true_eq, ← BitVec.toNat_inj,
    BitVec.extractLsb'_toNat, Nat.shiftRight_eq_div_pow, BitVec.toNat_ofNat]
  omega

/-- An offset of the table window is that of the entry its index field names (R72). -/
theorem tableOffset_of_inTableWindow {tb : Nat} {off : Offset} (h : inTableWindow tb off = true) :
    tableOffset (tableIndexField off) = off := by
  have ho := off.isLt
  apply BitVec.eq_of_toNat_eq
  simp only [inTableWindow, Bool.and_eq_true, decide_eq_true_eq, ← BitVec.toNat_inj, BitVec.extractLsb'_toNat,
    Nat.shiftRight_eq_div_pow, BitVec.toNat_ofNat] at h
  rw [tableOffset_toNat]
  simp only [tableIndexField, BitVec.extractLsb'_toNat, Nat.shiftRight_eq_div_pow]
  omega

/-- Each register is found at its own offset (R22). -/
@[simp] theorem regAt_regOffset (r : Reg) : regAt (regOffset r) = some r := by
  cases r <;> rfl

/-- The register map is one to one (R22). -/
theorem regOffset_of_regAt {off : Offset} {r : Reg} (h : regAt off = some r) : regOffset r = off := by
  unfold regAt at h
  repeat' split at h
  all_goals cases h
  all_goals (subst_vars; rfl)

/-- The offsets of registers are the aligned ones up to `0x018` (R22, R53). -/
theorem regAt_eq_none_iff (off : Offset) : regAt off = none ↔ ¬(off.toNat % 4 = 0 ∧ off.toNat ≤ 0x018) := by
  simp only [regAt, ← BitVec.toNat_inj, BitVec.toNat_ofNat]
  constructor
  · intro h
    repeat' split at h
    all_goals first | omega | cases h
  · intro h
    repeat' rw [if_neg (by omega)]

/-- No table entry is at a register's offset (R22). -/
@[simp] theorem regAt_tableOffset (i : BitVec 10) : regAt (tableOffset i) = none := by
  rw [regAt_eq_none_iff, tableOffset_toNat]
  omega

/-- R53: an offset is mapped exactly where a register or a table entry is found. -/
theorem mappedOffset_iff (tb : Nat) (off : Offset) (h : tb ≤ 10) :
    mappedOffset tb off = true ↔ regAt off ≠ none ∨ inTableWindow tb off = true := by
  rw [ne_eq, regAt_eq_none_iff, inTableWindow_iff tb off h]
  simp only [mappedOffset, Bool.and_eq_true, Bool.or_eq_true, decide_eq_true_eq]
  omega

end Sys2Proof
end

