-- ==== Sys2Proof/Laws/Engine.lean ====
section
/-! SUPPORT. What well-formedness of the instance gives (R8), and the values of the register words and of the engine as
numbers. -/

namespace Sys2Proof

/-- The bounds of R8, of every instance. -/
theorem Instance.bounds (inst : Instance) :
    (1 ≤ inst.params.tableBits ∧ inst.params.tableBits ≤ 10) ∧
    (1 ≤ inst.params.sampleWidth ∧ inst.params.sampleWidth ≤ 16) ∧ inst.params.shift ≤ 31 ∧
    (inst.params.sampleWidth + inst.params.shift ≤ inst.params.cmpWidth ∧ inst.params.cmpWidth ≤ 32) ∧
    inst.params.waveTable.length = inst.params.tableSize ∧
    ∀ x ∈ inst.params.waveTable, x.toNat < 2 ^ inst.params.sampleWidth := by
  have h := inst.ok
  simp only [Params.wf, Bool.and_eq_true, decide_eq_true_eq, List.all_eq_true] at h
  tauto

namespace Machine

/-- Inside the table, `TableRead` gives the listed sample (R30, R102). -/
theorem getElem?_eq_tableRead (inst : Instance) {i : Nat} (h : i < inst.params.tableSize) :
    inst.params.waveTable[i]? = some (tableRead inst.params i) := by
  have hl := inst.bounds.2.2.2.2.1
  rw [tableRead, List.getD_eq_getElem?_getD, List.getElem?_eq_getElem (hl ▸ h)]
  rfl

/-- A sample read inside the table is a sample of the table. -/
theorem tableRead_mem (inst : Instance) {i : Nat} (h : i < inst.params.tableSize) :
    tableRead inst.params i ∈ inst.params.waveTable :=
  List.mem_of_getElem? (getElem?_eq_tableRead inst h)

/-- The widened value before it is cut to a word fits in the compare register (R8, R103). -/
theorem sample_shift_lt (inst : Instance) {x : Sample} (h : x ∈ inst.params.waveTable) :
    x.toNat * 2 ^ inst.params.shift < 2 ^ inst.params.cmpWidth := by
  obtain ⟨-, -, -, ⟨hw, -⟩, -, hx⟩ := inst.bounds
  calc x.toNat * 2 ^ inst.params.shift < 2 ^ inst.params.sampleWidth * 2 ^ inst.params.shift :=
        Nat.mul_lt_mul_of_pos_right (hx x h) (Nat.two_pow_pos _)
    _ = 2 ^ (inst.params.sampleWidth + inst.params.shift) := (pow_add ..).symm
    _ ≤ 2 ^ inst.params.cmpWidth := Nat.pow_le_pow_right (by decide) hw

/-- The advanced accumulator as a number (R100). -/
theorem phaseAdvance_toNat (acc tw : Word) : (phaseAdvance acc tw).toNat = (acc.toNat + tw.toNat) % 2 ^ 32 :=
  BitVec.toNat_add acc tw

/-- The index as a number: division by `2^(32 - TABLE_BITS)` (R101). -/
theorem tableIndex_eq (p : Params) (acc : Word) : tableIndex p acc = acc.toNat / 2 ^ (32 - p.tableBits) := by
  simp [tableIndex, Nat.shiftRight_eq_div_pow]

/-- The low bits as a number. -/
theorem lowBits_toNat (width : Nat) (v : Word) : (lowBits width v).toNat = v.toNat % 2 ^ width :=
  Nat.mod_eq_of_lt (lt_of_le_of_lt (Nat.mod_le ..) v.isLt)

/-- The low bits of a value that fits are the value. -/
theorem lowBits_eq_self {width : Nat} {v : Word} (h : v.toNat < 2 ^ width) : lowBits width v = v :=
  BitVec.eq_of_toNat_eq ((lowBits_toNat ..).trans (Nat.mod_eq_of_lt h))

end Machine

end Sys2Proof
end

