-- ==== Sys2Proof/Laws/State.lean ====
section
/-! SUPPORT. What each update of the state leaves in each field: one lemma per field per update. -/

namespace Sys2Proof.Machine

/-! ### setUif -/

@[simp] theorem State.setUif_inst (b : Bool) (s : State) : (s.setUif b).inst = s.inst := rfl
@[simp] theorem State.setUif_ctrl (b : Bool) (s : State) : (s.setUif b).ctrl = s.ctrl := rfl
@[simp] theorem State.setUif_status (b : Bool) (s : State) : (s.setUif b).status = { s.status with uif := b } := rfl
@[simp] theorem State.setUif_tuning (b : Bool) (s : State) : (s.setUif b).tuning = s.tuning := rfl
@[simp] theorem State.setUif_phase (b : Bool) (s : State) : (s.setUif b).phase = s.phase := rfl
@[simp] theorem State.setUif_cmp (b : Bool) (s : State) : (s.setUif b).cmp = s.cmp := rfl
@[simp] theorem State.setUif_errinfo (b : Bool) (s : State) : (s.setUif b).errinfo = s.errinfo := rfl
@[simp] theorem State.setUif_returned (b : Bool) (s : State) : (s.setUif b).returned = s.returned := rfl
@[simp] theorem State.setUif_pending (b : Bool) (s : State) : (s.setUif b).pending = s.pending := rfl
@[simp] theorem State.setUif_turn (b : Bool) (s : State) : (s.setUif b).turn = s.turn := rfl

/-! ### setOvr -/

@[simp] theorem State.setOvr_inst (s : State) : s.setOvr.inst = s.inst := rfl
@[simp] theorem State.setOvr_ctrl (s : State) : s.setOvr.ctrl = s.ctrl := rfl
@[simp] theorem State.setOvr_status (s : State) : s.setOvr.status = { s.status with ovr := true } := rfl
@[simp] theorem State.setOvr_tuning (s : State) : s.setOvr.tuning = s.tuning := rfl
@[simp] theorem State.setOvr_phase (s : State) : s.setOvr.phase = s.phase := rfl
@[simp] theorem State.setOvr_cmp (s : State) : s.setOvr.cmp = s.cmp := rfl
@[simp] theorem State.setOvr_errinfo (s : State) : s.setOvr.errinfo = s.errinfo := rfl
@[simp] theorem State.setOvr_returned (s : State) : s.setOvr.returned = s.returned := rfl
@[simp] theorem State.setOvr_pending (s : State) : s.setOvr.pending = s.pending := rfl
@[simp] theorem State.setOvr_turn (s : State) : s.setOvr.turn = s.turn := rfl

/-! ### setCfgerr -/

@[simp] theorem State.setCfgerr_inst (s : State) : s.setCfgerr.inst = s.inst := rfl
@[simp] theorem State.setCfgerr_ctrl (s : State) : s.setCfgerr.ctrl = s.ctrl := rfl
@[simp] theorem State.setCfgerr_status (s : State) : s.setCfgerr.status = { s.status with cfgerr := true } := rfl
@[simp] theorem State.setCfgerr_tuning (s : State) : s.setCfgerr.tuning = s.tuning := rfl
@[simp] theorem State.setCfgerr_phase (s : State) : s.setCfgerr.phase = s.phase := rfl
@[simp] theorem State.setCfgerr_cmp (s : State) : s.setCfgerr.cmp = s.cmp := rfl
@[simp] theorem State.setCfgerr_errinfo (s : State) : s.setCfgerr.errinfo = s.errinfo := rfl
@[simp] theorem State.setCfgerr_returned (s : State) : s.setCfgerr.returned = s.returned := rfl
@[simp] theorem State.setCfgerr_pending (s : State) : s.setCfgerr.pending = s.pending := rfl
@[simp] theorem State.setCfgerr_turn (s : State) : s.setCfgerr.turn = s.turn := rfl

/-! ### setCtrl -/

@[simp] theorem State.setCtrl_inst (ten uie : Bool) (s : State) : (s.setCtrl ten uie).inst = s.inst := rfl
@[simp] theorem State.setCtrl_ctrl (ten uie : Bool) (s : State) : (s.setCtrl ten uie).ctrl = ⟨ten, uie⟩ := rfl
@[simp] theorem State.setCtrl_status (ten uie : Bool) (s : State) : (s.setCtrl ten uie).status = s.status := rfl
@[simp] theorem State.setCtrl_tuning (ten uie : Bool) (s : State) : (s.setCtrl ten uie).tuning = s.tuning := rfl
@[simp] theorem State.setCtrl_phase (ten uie : Bool) (s : State) : (s.setCtrl ten uie).phase = s.phase := rfl
@[simp] theorem State.setCtrl_cmp (ten uie : Bool) (s : State) : (s.setCtrl ten uie).cmp = s.cmp := rfl
@[simp] theorem State.setCtrl_errinfo (ten uie : Bool) (s : State) : (s.setCtrl ten uie).errinfo = s.errinfo := rfl
@[simp] theorem State.setCtrl_returned (ten uie : Bool) (s : State) : (s.setCtrl ten uie).returned = s.returned := rfl
@[simp] theorem State.setCtrl_pending (ten uie : Bool) (s : State) : (s.setCtrl ten uie).pending = s.pending := rfl
@[simp] theorem State.setCtrl_turn (ten uie : Bool) (s : State) : (s.setCtrl ten uie).turn = s.turn := rfl

/-! ### setTuning -/

@[simp] theorem State.setTuning_inst (v : Word) (s : State) : (s.setTuning v).inst = s.inst := rfl
@[simp] theorem State.setTuning_ctrl (v : Word) (s : State) : (s.setTuning v).ctrl = s.ctrl := rfl
@[simp] theorem State.setTuning_status (v : Word) (s : State) : (s.setTuning v).status = s.status := rfl
@[simp] theorem State.setTuning_tuning (v : Word) (s : State) : (s.setTuning v).tuning = v := rfl
@[simp] theorem State.setTuning_phase (v : Word) (s : State) : (s.setTuning v).phase = s.phase := rfl
@[simp] theorem State.setTuning_cmp (v : Word) (s : State) : (s.setTuning v).cmp = s.cmp := rfl
@[simp] theorem State.setTuning_errinfo (v : Word) (s : State) : (s.setTuning v).errinfo = s.errinfo := rfl
@[simp] theorem State.setTuning_returned (v : Word) (s : State) : (s.setTuning v).returned = s.returned := rfl
@[simp] theorem State.setTuning_pending (v : Word) (s : State) : (s.setTuning v).pending = s.pending := rfl
@[simp] theorem State.setTuning_turn (v : Word) (s : State) : (s.setTuning v).turn = s.turn := rfl

/-! ### setPhase -/

@[simp] theorem State.setPhase_inst (v : Word) (s : State) : (s.setPhase v).inst = s.inst := rfl
@[simp] theorem State.setPhase_ctrl (v : Word) (s : State) : (s.setPhase v).ctrl = s.ctrl := rfl
@[simp] theorem State.setPhase_status (v : Word) (s : State) : (s.setPhase v).status = s.status := rfl
@[simp] theorem State.setPhase_tuning (v : Word) (s : State) : (s.setPhase v).tuning = s.tuning := rfl
@[simp] theorem State.setPhase_phase (v : Word) (s : State) : (s.setPhase v).phase = v := rfl
@[simp] theorem State.setPhase_cmp (v : Word) (s : State) : (s.setPhase v).cmp = s.cmp := rfl
@[simp] theorem State.setPhase_errinfo (v : Word) (s : State) : (s.setPhase v).errinfo = s.errinfo := rfl
@[simp] theorem State.setPhase_returned (v : Word) (s : State) : (s.setPhase v).returned = s.returned := rfl
@[simp] theorem State.setPhase_pending (v : Word) (s : State) : (s.setPhase v).pending = s.pending := rfl
@[simp] theorem State.setPhase_turn (v : Word) (s : State) : (s.setPhase v).turn = s.turn := rfl

/-! ### setCmp -/

@[simp] theorem State.setCmp_inst (v : Word) (s : State) : (s.setCmp v).inst = s.inst := rfl
@[simp] theorem State.setCmp_ctrl (v : Word) (s : State) : (s.setCmp v).ctrl = s.ctrl := rfl
@[simp] theorem State.setCmp_status (v : Word) (s : State) : (s.setCmp v).status = s.status := rfl
@[simp] theorem State.setCmp_tuning (v : Word) (s : State) : (s.setCmp v).tuning = s.tuning := rfl
@[simp] theorem State.setCmp_phase (v : Word) (s : State) : (s.setCmp v).phase = s.phase := rfl
@[simp] theorem State.setCmp_cmp (v : Word) (s : State) : (s.setCmp v).cmp = v := rfl
@[simp] theorem State.setCmp_errinfo (v : Word) (s : State) : (s.setCmp v).errinfo = s.errinfo := rfl
@[simp] theorem State.setCmp_returned (v : Word) (s : State) : (s.setCmp v).returned = s.returned := rfl
@[simp] theorem State.setCmp_pending (v : Word) (s : State) : (s.setCmp v).pending = s.pending := rfl
@[simp] theorem State.setCmp_turn (v : Word) (s : State) : (s.setCmp v).turn = s.turn := rfl

/-! ### answer -/

@[simp] theorem State.answer_inst (r : Word) (s : State) : (s.answer r).inst = s.inst := rfl
@[simp] theorem State.answer_ctrl (r : Word) (s : State) : (s.answer r).ctrl = s.ctrl := rfl
@[simp] theorem State.answer_status (r : Word) (s : State) : (s.answer r).status = s.status := rfl
@[simp] theorem State.answer_tuning (r : Word) (s : State) : (s.answer r).tuning = s.tuning := rfl
@[simp] theorem State.answer_phase (r : Word) (s : State) : (s.answer r).phase = s.phase := rfl
@[simp] theorem State.answer_cmp (r : Word) (s : State) : (s.answer r).cmp = s.cmp := rfl
@[simp] theorem State.answer_errinfo (r : Word) (s : State) : (s.answer r).errinfo = s.errinfo := rfl
@[simp] theorem State.answer_returned (r : Word) (s : State) : (s.answer r).returned = some r := rfl
@[simp] theorem State.answer_pending (r : Word) (s : State) : (s.answer r).pending = s.pending := rfl
@[simp] theorem State.answer_turn (r : Word) (s : State) : (s.answer r).turn = s.turn := rfl

/-! ### endOfService -/

@[simp] theorem State.endOfService_inst (s : State) : s.endOfService.inst = s.inst := rfl
@[simp] theorem State.endOfService_ctrl (s : State) : s.endOfService.ctrl = s.ctrl := rfl
@[simp] theorem State.endOfService_status (s : State) : s.endOfService.status = { s.status with uif := false } := rfl
@[simp] theorem State.endOfService_tuning (s : State) : s.endOfService.tuning = s.tuning := rfl
@[simp] theorem State.endOfService_phase (s : State) : s.endOfService.phase = s.phase := rfl
@[simp] theorem State.endOfService_cmp (s : State) : s.endOfService.cmp = s.cmp := rfl
@[simp] theorem State.endOfService_errinfo (s : State) : s.endOfService.errinfo = s.errinfo := rfl
@[simp] theorem State.endOfService_returned (s : State) : s.endOfService.returned = s.returned := rfl
@[simp] theorem State.endOfService_pending (s : State) : s.endOfService.pending = s.pending := rfl
@[simp] theorem State.endOfService_turn (s : State) : s.endOfService.turn = s.turn := rfl

/-! ### resetRegisters -/

@[simp] theorem State.resetRegisters_inst (s : State) : s.resetRegisters.inst = s.inst := rfl
@[simp] theorem State.resetRegisters_ctrl (s : State) : s.resetRegisters.ctrl = ⟨false, false⟩ := rfl
@[simp] theorem State.resetRegisters_status (s : State) : s.resetRegisters.status = ⟨false, false, false⟩ := rfl
@[simp] theorem State.resetRegisters_tuning (s : State) : s.resetRegisters.tuning = s.inst.params.tuningInit := rfl
@[simp] theorem State.resetRegisters_phase (s : State) : s.resetRegisters.phase = s.inst.params.phaseInit := rfl
@[simp] theorem State.resetRegisters_cmp (s : State) : s.resetRegisters.cmp = 0#32 := rfl
@[simp] theorem State.resetRegisters_errinfo (s : State) : s.resetRegisters.errinfo = ⟨false, false, 0#14⟩ := rfl
@[simp] theorem State.resetRegisters_returned (s : State) : s.resetRegisters.returned = s.returned := rfl
@[simp] theorem State.resetRegisters_pending (s : State) : s.resetRegisters.pending = s.pending := rfl
@[simp] theorem State.resetRegisters_turn (s : State) : s.resetRegisters.turn = s.turn := rfl

end Sys2Proof.Machine
end

