-- ==== Sys2Proof/Laws/Ops.lean ====
section
/-! SUPPORT. What the shared operations do, each said once: raising a fault, refusing an access, bringing about an
enabling condition. -/

namespace Sys2Proof.Machine

/-- Raising OVR writes its sticky bit and nothing else (R181). -/
theorem State.raiseFault_ovr (s : State) :
    s.raiseFault .ovr = { s with status := ⟨s.status.uif, true, s.status.cfgerr⟩ } := rfl

/-- Raising CFGERR sets its sticky bit and records the access if none is recorded (R181). -/
theorem State.raiseFault_cfgerr (off : Offset) (dir : Dir) (s : State) :
    s.raiseFault (.cfgerr off dir) = s.withRefusal (decide (dir = .write)) off := by
  by_cases h : s.errinfo.valid = true <;>
    simp [State.raiseFault, State.recordAccess, State.withRefusal, State.setCfgerr, h]

/-- A refused write is the record alone (R53, R153). -/
theorem State.refuseWrite_eq (off : Offset) (s : State) : s.refuseWrite off = s.withRefusal true off :=
  State.raiseFault_cfgerr off .write s

/-- A refused read answers 0 and is recorded (R53, R149). -/
theorem State.refuseRead_eq (off : Offset) (s : State) :
    s.refuseRead off = { s with returned := some 0#32 }.withRefusal false off :=
  State.raiseFault_cfgerr off .read (s.answer 0#32)

/-- A write that `execWrCtrl` takes leaves every set enable set (R146). -/
theorem State.wouldClearCtrl_eq_false {ten uie : Bool} {s : State} (h : s.wouldClearCtrl ten uie = false) :
    (s.ctrl.ten = true → ten = true) ∧ (s.ctrl.uie = true → uie = true) := by
  revert h
  unfold State.wouldClearCtrl
  cases s.ctrl.ten <;> cases s.ctrl.uie <;> cases ten <;> cases uie <;> decide

/-- The event laid down for the next step is enabled there (R120, R124). -/
theorem State.makeEnabled_enabled (i : Instr) (s : State) : enabled i (s.makeEnabled i) = true := by
  unfold State.makeEnabled
  split
  · assumption
  · cases i <;> rfl

end Sys2Proof.Machine
end

