-- ==== Sys2Proof/Laws/Exec.lean ====
section
/-! SUPPORT. What an operation that completes does, said once: the inversion of `exec`, and when each operation completes. -/

namespace Sys2Proof.Machine

/-- The ways in which an operation `i` on `s` completes, each with the state it leaves. -/
inductive ExecCase (s : State) : Instr → State → Prop
  /-- A read that is taken answers a word and changes nothing else (R54). -/
  | read (i : Instr) (r : Word)
      (hi : i ∈ [.rdCtrl, .rdStatus, .rdTuning, .rdPhase, .rdCmp, .rdParam, .rdErrinfo] ∨
        ∃ k, i = .rdTable k ∧ k.toNat < s.inst.params.tableSize) :
      ExecCase s i { s with returned := some r }
  /-- A refused read answers 0 and is recorded with the offset of its word (R149). -/
  | refusedRead (i : Instr)
      (hi : (∃ off, i = .rdRefused off) ∨ ∃ k, i = .rdTable k ∧ s.inst.params.tableSize ≤ k.toNat) :
      ExecCase s i ({ s with returned := some 0#32 }.withRefusal false (lowField (encode i).word))
  /-- A refused write is recorded with the offset of its word (R146, R150 to R153). -/
  | refusedWrite (i : Instr)
      (hi : (∃ d, i = .wrCtrl d) ∨ (∃ d, i = .wrTuning d) ∨ (∃ d, i = .wrPhase d) ∨ (∃ d, i = .wrCmp d) ∨
        ∃ off d, i = .wrRefused off d) :
      ExecCase s i (s.withRefusal true (lowField (encode i).word))
  /-- WR_CTRL taken keeps every set bit set (R146). -/
  | wrCtrl (d : Word) (hten : s.ctrl.ten = true → dataTen d = true) (huie : s.ctrl.uie = true → dataUie d = true) :
      ExecCase s (.wrCtrl d) { s with ctrl := ⟨dataTen d, dataUie d⟩ }
  /-- WR_TUNING taken (R150). -/
  | wrTuning (d : Word) (hl : s.locked = false) : ExecCase s (.wrTuning d) { s with tuning := d }
  /-- WR_PHASE taken (R151). -/
  | wrPhase (d : Word) (hl : s.locked = false) : ExecCase s (.wrPhase d) { s with phase := d }
  /-- WR_CMP taken (R152). -/
  | wrCmp (d : Word) (hl : s.locked = false) (hd : d.toNat < 2 ^ s.inst.params.cmpWidth) :
      ExecCase s (.wrCmp d) { s with cmp := d }
  /-- TICK (R120). -/
  | tick (ht : s.ctrl.ten = true) :
      ExecCase s .tick { s with status := ⟨true, s.status.ovr || (s.status.uif && s.ctrl.uie), s.status.cfgerr⟩ }
  /-- UPDATE (R124). -/
  | update (hf : s.status.uif = true) (he : s.ctrl.uie = true) :
      ExecCase s .update { s with
        phase := (engine s.inst.params s.phase s.tuning).1
        cmp := (engine s.inst.params s.phase s.tuning).2
        status := ⟨false, s.status.ovr, s.status.cfgerr⟩ }
  /-- RESET (R200). -/
  | reset : ExecCase s .reset s.resetRegisters

/-- An operation that completes does so in one of the ways of `ExecCase`. -/
theorem exec_cases {i : Instr} {s t : State} (h : exec i s = .next t) : ExecCase s i t := by
  cases i with
  | rdTable k =>
    simp only [exec, execRdTable] at h
    cases h
    split
    · next hk => exact .read _ _ (.inr ⟨k, rfl, hk⟩)
    · next hk =>
      rw [State.refuseRead_eq]
      simpa [encode, readWords] using ExecCase.refusedRead (s := s) (.rdTable k) (.inr ⟨k, rfl, not_lt.1 hk⟩)
  | rdRefused off =>
    simp only [exec, execRdRefused, State.refuseRead_eq] at h
    cases h
    simpa [encode, readWords] using ExecCase.refusedRead (s := s) (.rdRefused off) (.inl ⟨off, rfl⟩)
  | wrRefused off d =>
    simp only [exec, execWrRefused, State.refuseWrite_eq] at h
    cases h
    simpa [encode, writeWords] using ExecCase.refusedWrite (s := s) (.wrRefused off d) (by simp)
  | wrCtrl d =>
    simp only [exec, execWrCtrl, State.refuseWrite_eq] at h
    cases h
    split
    · simpa [encode, writeWords] using ExecCase.refusedWrite (s := s) (.wrCtrl d) (by simp)
    · next hc =>
      have hset := State.wouldClearCtrl_eq_false (Bool.eq_false_iff.2 hc)
      exact .wrCtrl d hset.1 hset.2
  | wrTuning d =>
    simp only [exec, execWrTuning, State.refuseWrite_eq] at h
    cases h
    split
    · simpa [encode, writeWords] using ExecCase.refusedWrite (s := s) (.wrTuning d) (by simp)
    · next hl => exact .wrTuning d (Bool.eq_false_iff.2 hl)
  | wrPhase d =>
    simp only [exec, execWrPhase, State.refuseWrite_eq] at h
    cases h
    split
    · simpa [encode, writeWords] using ExecCase.refusedWrite (s := s) (.wrPhase d) (by simp)
    · next hl => exact .wrPhase d (Bool.eq_false_iff.2 hl)
  | wrCmp d =>
    simp only [exec, execWrCmp, State.refuseWrite_eq] at h
    cases h
    split
    · simpa [encode, writeWords] using ExecCase.refusedWrite (s := s) (.wrCmp d) (by simp)
    · next hc =>
      simp only [dataInCompareRange, Bool.or_eq_true, Bool.not_eq_true', decide_eq_false_iff_not, not_or, not_not] at hc
      rw [lowBits_eq_self hc.2]
      exact .wrCmp d (Bool.eq_false_iff.2 hc.1) hc.2
  | tick =>
    simp only [exec, execTick, State.raiseFault_ovr] at h
    split at h
    · next ht =>
      cases h
      have := ExecCase.tick (s := s) ht
      revert this
      unfold State.overrun
      cases s.status.uif && s.ctrl.uie <;> simp [State.setUif]
    · cases h
  | update =>
    simp only [exec, execUpdate] at h
    split at h
    · next he =>
      cases h
      simp only [State.updateEnabled, Bool.and_eq_true] at he
      exact .update he.1 he.2
    · cases h
  | reset =>
    cases h
    exact .reset
  | _ =>
    cases h
    exact .read _ _ (.inl (by simp))

end Sys2Proof.Machine
end

