-- ==== Sys2Proof/Laws/PerInstr.lean ====
section
/-! SUPPORT. Statements made of every operation, one lemma per constructor: the shape of its words. -/

namespace Sys2Proof.Laws.OperandShape

/-- R70, R71, R76, D25: an operation's words carry a data operand exactly when its class is `01`, and its class is `10`
exactly when it is an event, an operation that the setup agent does not present. -/
def Statement (i : Instr) : Prop :=
  ((encode i).data.isSome = true ↔ classField (encode i).word = 0b01#2) ∧
  (Machine.agentOf i ≠ .setup ↔ classField (encode i).word = 0b10#2)

/-- A read's class is `00`, and it carries no data (R71). -/
theorem of_read {i : Instr} {off : Offset} (h : encode i = readWords off) (ha : Machine.agentOf i = .setup) :
    Statement i := by
  simp [Statement, h, ha, readWords]

/-- A write's class is `01`, and it carries data (R71). -/
theorem of_write {i : Instr} {off : Offset} {d : Word} (h : encode i = writeWords off d)
    (ha : Machine.agentOf i = .setup) : Statement i := by
  simp [Statement, h, ha, writeWords]

/-- An event's class is `10`, and it carries no data (R71, R73). -/
theorem of_event {i : Instr} {evt : BitVec 14} (h : encode i = eventWords evt) (ha : Machine.agentOf i ≠ .setup) :
    Statement i := by
  simp [Statement, h, ha, eventWords]

theorem rdCtrl : Statement .rdCtrl := of_read rfl rfl
theorem rdStatus : Statement .rdStatus := of_read rfl rfl
theorem rdTuning : Statement .rdTuning := of_read rfl rfl
theorem rdPhase : Statement .rdPhase := of_read rfl rfl
theorem rdCmp : Statement .rdCmp := of_read rfl rfl
theorem rdParam : Statement .rdParam := of_read rfl rfl
theorem rdErrinfo : Statement .rdErrinfo := of_read rfl rfl
theorem rdTable (i : BitVec 10) : Statement (.rdTable i) := of_read rfl rfl
theorem rdRefused (off : Offset) : Statement (.rdRefused off) := of_read rfl rfl
theorem wrCtrl (d : Word) : Statement (.wrCtrl d) := of_write rfl rfl
theorem wrTuning (d : Word) : Statement (.wrTuning d) := of_write rfl rfl
theorem wrPhase (d : Word) : Statement (.wrPhase d) := of_write rfl rfl
theorem wrCmp (d : Word) : Statement (.wrCmp d) := of_write rfl rfl
theorem wrRefused (off : Offset) (d : Word) : Statement (.wrRefused off d) := of_write rfl rfl
theorem tick : Statement .tick := of_event rfl (by decide)
theorem update : Statement .update := of_event rfl (by decide)
theorem reset : Statement .reset := of_event rfl (by decide)

end Sys2Proof.Laws.OperandShape
end

