-- ==== Sys2Proof/Laws/Step.lean ====
section
/-! SUPPORT. What a turn and a step can do, each said once (R13, R15, R55, R76). -/

namespace Sys2Proof.Machine

/-- A presentation is accepted exactly when its words spell an operation of its agent (R74, R76). -/
theorem accept_eq_ok {p : Presentation} {s : State} {i : Instr} :
    accept p s = .ok i ↔ decode s.inst.params.tableBits p.op = .ok i ∧ agentOf i = p.agent := by
  unfold accept
  cases decode s.inst.params.tableBits p.op with
  | error e => simp
  | ok j =>
    by_cases h : agentOf j = p.agent <;> simp only [h, if_true, if_false, Except.ok.injEq, reduceCtorEq, false_iff]
    · exact ⟨fun e => ⟨e, e ▸ h⟩, And.left⟩
    · rintro ⟨rfl, h'⟩
      exact h h'

/-- A laid-down presentation is performed or refused, on the state as it is. -/
theorem laidDownTurn_cases (p : Presentation) (s : State) :
    (∃ i, accept p s = .ok i ∧ laidDownTurn p s = .perform i s) ∨
    ∃ r, accept p s = .error r ∧ laidDownTurn p s = .refuse r := by
  unfold laidDownTurn
  cases accept p s with
  | ok i => exact .inl ⟨i, rfl, rfl⟩
  | error r => exact .inr ⟨r, rfl, rfl⟩

/-- A free turn performs an enabled operation or passes, on the state as it is; it never refuses. -/
theorem freeTurn_cases (p : Presentation) (s : State) :
    (∃ i, accept p s = .ok i ∧ enabled i s = true ∧ freeTurn p s = .perform i s) ∨ freeTurn p s = .pass s := by
  unfold freeTurn
  cases accept p s with
  | ok i =>
    by_cases h : enabled i s = true
    · exact .inl ⟨i, rfl, h, if_pos h⟩
    · exact .inr (if_neg h)
  | error r => exact .inr rfl

/-- A step that answers a next state performed one operation, or no agent acted. The state that the operation is performed
on differs from `s` in `returned`, `pending` and `turn` alone. -/
theorem step_cases {s t : State} (h : step s = .next t) :
    ∃ (pending : List Presentation) (turn : Nat),
      (∃ i, exec i { s with returned := none, pending := pending, turn := turn } = .next t) ∨
      t = { s with returned := none, pending := pending, turn := turn } := by
  cases hp : s.pending with
  | cons p rest =>
    refine ⟨rest, s.turn, ?_⟩
    have hn : nextTurn s = laidDownTurn p { s with pending := rest, returned := none } := by simp only [nextTurn, hp]
    obtain ⟨i, -, hi⟩ | ⟨r, -, hr⟩ := laidDownTurn_cases p { s with pending := rest, returned := none }
    · simp only [step, hn, hi] at h
      exact .inl ⟨i, h⟩
    · simp only [step, hn, hr] at h
      cases h
  | nil =>
    refine ⟨s.pending, s.turn + 1, ?_⟩
    have hn : nextTurn s = freeTurn (Config.freePresentation s.turn) { s with turn := s.turn + 1, returned := none } := by
      simp only [nextTurn, hp]
    obtain ⟨i, -, -, hi⟩ | hi :=
        freeTurn_cases (Config.freePresentation s.turn) { s with turn := s.turn + 1, returned := none } <;>
      simp only [step, hn, hi] at h
    · exact .inl ⟨i, h⟩
    · exact .inr (by cases h; rfl)

end Sys2Proof.Machine
end

