-- ==== Sys2Proof/Machine/Script.lean ====
section
/-! DEFINITION. The spec's script (R77) and its pseudo-operations (R78): from the characters of a line to the operation
words it assembles to, and to the presentations that lay a script down. -/

namespace Sys2Proof.Machine

/-- What an access of a script names: a register, `TABLE[i]`, or an offset given as a number (R77). -/
inductive ScriptTarget where
  | reg (r : Reg)
  | table (i : Nat)
  | offset (n : Nat)
deriving DecidableEq, Repr

/-- A line of a script: an operation of R77, or a pseudo-operation of R78. -/
inductive ScriptLine where
  | rd (t : ScriptTarget)
  | wr (t : ScriptTarget) (d : Word)
  | tick
  | update
  | reset
  | config (t p c : Word)
  | start
  | arm
  | service (n : Nat)
deriving DecidableEq, Repr

/-- The offset that a target names, where the 14-bit offset field holds it (R50, R71). -/
def targetOffset : ScriptTarget → Option Offset
  | .reg r => some (regOffset r)
  | .table i => if 0x1000 + 4 * i < 2 ^ 14 then some (BitVec.ofNat 14 (0x1000 + 4 * i)) else none
  | .offset n => if n < 2 ^ 14 then some (BitVec.ofNat 14 n) else none

/-- `service*n` as words (R78). -/
def serviceWords : Nat → List OpWords
  | 0 => []
  | n + 1 => eventWords 0#14 :: eventWords 1#14 :: serviceWords n

/-- The words of a line, with pseudo-operations expanded (R77, R78). An access to an offset that R74 does not map
assembles like any other; its word is that of RD_REFUSED or WR_REFUSED. -/
def assembleLine : ScriptLine → Option (List OpWords)
  | .rd t => (targetOffset t).map fun off => [readWords off]
  | .wr t d => (targetOffset t).map fun off => [writeWords off d]
  | .tick => some [eventWords 0#14]
  | .update => some [eventWords 1#14]
  | .reset => some [eventWords 2#14]
  | .config t p c =>
    some [writeWords (regOffset .tuning) t, writeWords (regOffset .phase) p, writeWords (regOffset .cmp) c]
  | .start => some [writeWords (regOffset .ctrl) 1#32]
  | .arm => some [writeWords (regOffset .ctrl) 3#32]
  | .service n => some (serviceWords n)

/-- The words as presented by the agent that may present them (R76); words that spell no operation go to the setup
agent and are refused when their turn comes (R75). -/
def presentationOf (tb : Nat) (op : OpWords) : Presentation :=
  match decode tb op with
  | .ok i => ⟨agentOf i, op⟩
  | .error _ => ⟨.setup, op⟩

/-- Everything before the comment sign (R77). -/
def stripComment (cs : List Char) : List Char := cs.takeWhile fun c => decide (c ≠ ';')

/-- A character of a word, in lower case; blanks and the comma separate words (log entry 14). -/
def isSeparator (c : Char) : Bool := c = ' ' || c = ',' || c = '\t' || c = '\r'

/-- The words of a line, after `acc`, the word being read in reverse. -/
def splitWords (acc : List Char) : List Char → List (List Char)
  | [] => if acc.isEmpty then [] else [acc.reverse]
  | c :: cs =>
    if isSeparator c then (if acc.isEmpty then splitWords [] cs else acc.reverse :: splitWords [] cs)
    else splitWords (c.toLower :: acc) cs

/-- The value of a digit in a base up to 16, letters in lower case. -/
def digitValue (base : Nat) (c : Char) : Option Nat :=
  let v := if '0' ≤ c ∧ c ≤ '9' then c.toNat - 48 else if 'a' ≤ c ∧ c ≤ 'f' then c.toNat - 87 else 16
  if v < base then some v else none

/-- The number that digits spell after the value read so far. -/
def digitsValue (base : Nat) (n : Nat) : List Char → Option Nat
  | [] => some n
  | c :: cs => (digitValue base c).bind fun v => digitsValue base (base * n + v) cs

/-- A number: `0x` prefixes hexadecimal, every other numeral is decimal (R10). -/
def parseNumber : List Char → Option Nat
  | [] => none
  | '0' :: 'x' :: c :: cs => digitsValue 16 0 (c :: cs)
  | c :: cs => digitsValue 10 0 (c :: cs)

/-- A 32-bit number. -/
def parseWord (cs : List Char) : Option Word :=
  (parseNumber cs).bind fun n => if n < 2 ^ 32 then some (BitVec.ofNat 32 n) else none

/-- `TABLE[<i>]` (R77), the part after the opening bracket. -/
def parseTableIndex (cs : List Char) : Option Nat :=
  match cs.reverse with
  | ']' :: rest => parseNumber rest.reverse
  | _ => none

/-- A register's name, a table entry or an offset (R77). -/
def parseTarget (cs : List Char) : Option ScriptTarget :=
  if cs = ['c', 't', 'r', 'l'] then some (.reg .ctrl)
  else if cs = ['s', 't', 'a', 't', 'u', 's'] then some (.reg .status)
  else if cs = ['t', 'u', 'n', 'i', 'n', 'g'] then some (.reg .tuning)
  else if cs = ['p', 'h', 'a', 's', 'e'] then some (.reg .phase)
  else if cs = ['c', 'm', 'p'] then some (.reg .cmp)
  else if cs = ['p', 'a', 'r', 'a', 'm'] then some (.reg .param)
  else if cs = ['e', 'r', 'r', 'i', 'n', 'f', 'o'] then some (.reg .errinfo)
  else if cs.take 6 = ['t', 'a', 'b', 'l', 'e', '['] then (parseTableIndex (cs.drop 6)).map .table
  else (parseNumber cs).map .offset

/-- The words of a line as the operation they spell. -/
def parseWords : List (List Char) → Option ScriptLine
  | [['r', 'd'], t] => (parseTarget t).map .rd
  | [['w', 'r'], t, d] => (parseTarget t).bind fun t' => (parseWord d).map (.wr t')
  | [['t', 'i', 'c', 'k']] => some .tick
  | [['u', 'p', 'd', 'a', 't', 'e']] => some .update
  | [['r', 'e', 's', 'e', 't']] => some .reset
  | [['c', 'o', 'n', 'f', 'i', 'g'], t, p, c] =>
    (parseWord t).bind fun t' => (parseWord p).bind fun p' => (parseWord c).map (.config t' p')
  | [['s', 't', 'a', 'r', 't']] => some .start
  | [['a', 'r', 'm']] => some .arm
  | [['s', 'e', 'r', 'v', 'i', 'c', 'e']] => some (.service 1)
  | [w] => if w.take 8 = ['s', 'e', 'r', 'v', 'i', 'c', 'e', '*'] then (parseNumber (w.drop 8)).map .service else none
  | _ => none

/-- One line's operation words: none where it is empty or only a comment; no value where it is no line of R77 or R78. -/
def assembleText (line : List Char) : Option (List OpWords) :=
  match splitWords [] (stripComment line) with
  | [] => some []
  | w :: ws => (parseWords (w :: ws)).bind assembleLine

/-- A script's lines laid down behind what is pending, each presented by its own agent (R55, R77). -/
def State.layDownScript (lines : List (List Char)) (s : State) : Option State :=
  (lines.mapM assembleText).map fun ops =>
    { s with pending := s.pending ++ ops.flatten.map (presentationOf s.inst.params.tableBits) }

end Sys2Proof.Machine
end

