-- ==== Sys2Proof/Tests/Slice0.lean ====
section
/-! SUPPORT. Tests of the model: words written out from R74, vectors of 95_test_vectors.md, the ill-formed terms that the
checks refuse, and for every statement with hypotheses a state and operands that meet them. -/

namespace Sys2Proof.Tests

open Sys2Proof Sys2Proof.Machine

/-! ### A test instance: `CMP_WIDTH = 16` and the test table `W[i] = i` (95_test_vectors.md) -/

/-- The test parameters. -/
def testParams : Params where
  tableBits := 8
  sampleWidth := 8
  shift := 3
  cmpWidth := 16
  waveTable := (List.range 256).map (BitVec.ofNat 16)
  tuningInit := 0x10624DD2#32
  phaseInit := 0#32
  tickHz := 15625
  ddsBase := 0x40000000

/-- The test instance. -/
def testInst : Instance := ⟨testParams, by decide +kernel⟩

/-- The test state after reset. -/
def st : State := State.initial testInst

/-- The test state with enables and a pending tick given. -/
def stWith (ten uie uif : Bool) : State := { st with ctrl := ⟨ten, uie⟩, status := ⟨uif, false, false⟩ }

/-- The state that an outcome gives. -/
def after (o : Host.Outcome State Fault Refusal) : Option State :=
  match o with
  | .next s => some s
  | .fault _ => none
  | .refused _ => none

/-- The refusal that an outcome gives. -/
def refusal (o : Host.Outcome State Fault Refusal) : Option Refusal :=
  match o with
  | .next _ => none
  | .fault _ => none
  | .refused r => some r

/-! ### Well-formedness: a term for each check that the check refuses -/

/-- One past the table (R148). -/
theorem test_wf_rdTable_past_end : (Instr.rdTable 256#10).wf 8 = false ∧ (Instr.rdTable 255#10).wf 8 = true := by decide

/-- A mapped register is not refused; a misaligned or unmapped offset is (R53). -/
theorem test_wf_rdRefused : (Instr.rdRefused 0x004#14).wf 8 = false ∧ (Instr.rdRefused 0x13FC#14).wf 8 = false ∧
    (Instr.rdRefused 0x002#14).wf 8 = true ∧ (Instr.rdRefused 0x1400#14).wf 8 = true := by decide

/-- A writable register is not refused; `STATUS` is (R153). -/
theorem test_wf_wrRefused : (Instr.wrRefused 0x010#14 0#32).wf 8 = false ∧
    (Instr.wrRefused 0x004#14 0#32).wf 8 = true := by decide

/-- R8's refusals of 95_test_vectors.md 2.1: a shift that does not fit, an empty and an oversized table. -/
theorem test_params_refused : Instance.ofParams { testParams with cmpWidth := 10 } = none ∧
    Instance.ofParams { testParams with tableBits := 0 } = none ∧
    Instance.ofParams { testParams with tableBits := 11 } = none := by decide

/-- R8's other bounds: sample width, shift, compare width, table length, sample range. -/
theorem test_params_refused_more : Instance.ofParams { testParams with sampleWidth := 0 } = none ∧
    Instance.ofParams { testParams with sampleWidth := 17, cmpWidth := 32 } = none ∧
    Instance.ofParams { testParams with cmpWidth := 33 } = none ∧
    Instance.ofParams { testParams with shift := 32, cmpWidth := 32 } = none ∧
    Instance.ofParams { testParams with waveTable := [] } = none := by decide

/-- A sample outside its width is refused (R8). -/
theorem test_params_sample_range : ({ testParams with sampleWidth := 7 } : Params).wf = false := by decide +kernel

/-! ### Decoding: words of R74, bit by bit -/

/-- `CLS = 00`, `OFF = 00 0000 0000 0000` to `00 0000 0001 1000`: the registers. -/
theorem test_decode_register_reads : decode 8 ⟨0b0000000000000000#16, none⟩ = .ok .rdCtrl ∧
    decode 8 ⟨0b0000000000000100#16, none⟩ = .ok .rdStatus ∧ decode 8 ⟨0b0000000000001000#16, none⟩ = .ok .rdTuning ∧
    decode 8 ⟨0b0000000000001100#16, none⟩ = .ok .rdPhase ∧ decode 8 ⟨0b0000000000010000#16, none⟩ = .ok .rdCmp ∧
    decode 8 ⟨0b0000000000010100#16, none⟩ = .ok .rdParam ∧
    decode 8 ⟨0b0000000000011000#16, none⟩ = .ok .rdErrinfo := by decide

/-- `rd TABLE[16]` is `0x1040`, `rd TABLE[255]` is `0x13FC` (95_test_vectors.md 2.4). -/
theorem test_decode_table_reads : decode 8 ⟨0b0001000001000000#16, none⟩ = .ok (.rdTable 16#10) ∧
    decode 8 ⟨0b0001001111111100#16, none⟩ = .ok (.rdTable 255#10) ∧
    decode 10 ⟨0b0001111111111100#16, none⟩ = .ok (.rdTable 1023#10) := by decide

/-- Refused reads of 95_test_vectors.md 2.4: one past the table, misaligned, the last word; and `0x01C` of R149. -/
theorem test_decode_refused_reads : decode 8 ⟨0x1400#16, none⟩ = .ok (.rdRefused 0x1400#14) ∧
    decode 8 ⟨0x0002#16, none⟩ = .ok (.rdRefused 0x0002#14) ∧
    decode 8 ⟨0x3FFC#16, none⟩ = .ok (.rdRefused 0x3FFC#14) ∧
    decode 8 ⟨0x001C#16, none⟩ = .ok (.rdRefused 0x001C#14) ∧
    decode 8 ⟨0x1001#16, none⟩ = .ok (.rdRefused 0x1001#14) := by decide

/-- `CLS = 01`: the writes. -/
theorem test_decode_writes : decode 8 ⟨0b0100000000000000#16, some 3#32⟩ = .ok (.wrCtrl 3#32) ∧
    decode 8 ⟨0b0100000000001000#16, some 7#32⟩ = .ok (.wrTuning 7#32) ∧
    decode 8 ⟨0b0100000000001100#16, some 7#32⟩ = .ok (.wrPhase 7#32) ∧
    decode 8 ⟨0b0100000000010000#16, some 7#32⟩ = .ok (.wrCmp 7#32) := by decide

/-- Writes to the read-only words (R153). -/
theorem test_decode_refused_writes : decode 8 ⟨0x4004#16, some 1#32⟩ = .ok (.wrRefused 0x004#14 1#32) ∧
    decode 8 ⟨0x4014#16, some 1#32⟩ = .ok (.wrRefused 0x014#14 1#32) ∧
    decode 8 ⟨0x4018#16, some 1#32⟩ = .ok (.wrRefused 0x018#14 1#32) ∧
    decode 8 ⟨0x5000#16, some 5#32⟩ = .ok (.wrRefused 0x1000#14 5#32) ∧
    decode 8 ⟨0x4009#16, some 5#32⟩ = .ok (.wrRefused 0x009#14 5#32) := by decide

/-- `CLS = 10`: the events. -/
theorem test_decode_events : decode 8 ⟨0b1000000000000000#16, none⟩ = .ok .tick ∧
    decode 8 ⟨0b1000000000000001#16, none⟩ = .ok .update ∧ decode 8 ⟨0b1000000000000010#16, none⟩ = .ok .reset := by decide

/-- The reserved words of 95_test_vectors.md 2.6. -/
theorem test_decode_reserved : decode 8 ⟨0x8003#16, none⟩ = .error (.reservedWord 0x8003#16) ∧
    decode 8 ⟨0xBFFF#16, none⟩ = .error (.reservedWord 0xBFFF#16) ∧
    decode 8 ⟨0xC000#16, none⟩ = .error (.reservedWord 0xC000#16) ∧
    decode 8 ⟨0xFFFF#16, some 0#32⟩ = .error (.reservedWord 0xFFFF#16) := by decide

/-- A write without data, and a read with data (D25). -/
theorem test_decode_operands : decode 8 ⟨0x4000#16, none⟩ = .error (.operandMismatch 0x4000#16) ∧
    decode 8 ⟨0x0000#16, some 0#32⟩ = .error (.operandMismatch 0x0000#16) ∧
    decode 8 ⟨0x8000#16, some 0#32⟩ = .error (.operandMismatch 0x8000#16) := by decide

/-- The opcode table's numbering: the data of a write stands above its word. -/
theorem test_decode_table_word : decodeTableWord 16 0x4008 = some (.wrTuning 0#32) ∧
    decodeTableWord 48 0x010000004008 = some (.wrTuning 0x01000000#32) ∧ decodeTableWord 16 0xC000 = none := by decide

/-! ### Reads (R140 to R149; 95_test_vectors.md 2.4) -/

theorem test_rdCtrl_armed : (after (exec .rdCtrl (stWith true true false))).bind (·.returned) = some 0x00000003#32 := by
  decide

theorem test_rdStatus_faulted :
    (after (exec .rdStatus { st with status := ⟨false, true, true⟩ })).bind (·.returned) = some 0x00000006#32 := by decide

theorem test_rdTuning_reset : (after (exec .rdTuning st)).bind (·.returned) = some 0x10624DD2#32 := by decide

theorem test_rdPhase : (after (exec .rdPhase { st with phase := 0x3126E976#32 })).bind (·.returned) = some 0x3126E976#32 := by
  decide

/-- Bits above `CMP_WIDTH` read 0 (R27). -/
theorem test_rdCmp_masks_above_width :
    (after (exec .rdCmp { st with cmp := 0xFFFF0400#32 })).bind (·.returned) = some 0x00000400#32 := by decide

/-- R145's example, `CMP_WIDTH = 16`. -/
theorem test_rdParam_reference : (after (exec .rdParam st)).bind (·.returned) = some 0x10030808#32 := by decide

/-- R147's example: VALID, WR, OFF = `0x008`. -/
theorem test_rdErrinfo : (after (exec .rdErrinfo { st with errinfo := ⟨true, true, 0x008#14⟩ })).bind (·.returned) =
    some 0x80004008#32 := by decide

theorem test_rdTable_16 : (after (exec (.rdTable 16#10) st)).bind (·.returned) = some 0x00000010#32 := by decide

/-- The reference table's one known entry (R30). -/
theorem test_rdTable_16_reference : (after (exec (.rdTable 16#10) State.reset)).bind (·.returned) = some 0x00000010#32 := by
  decide

/-- R149's example: `r = 0`, `STATUS = 0x4`, `ERRINFO = 0x8000001C`. -/
theorem test_rdRefused_records : (after (exec (.rdRefused 0x01C#14) st)).map
    (fun s => (s.returned, statusWord s.status, errinfoWord s.errinfo)) = some (some 0#32, 4#32, 0x8000001C#32) := by decide

/-! ### Writes (R146, R150 to R153; 95_test_vectors.md 2.4) -/

/-- Reserved bits ignored, no fault. -/
theorem test_wrCtrl_reserved_bits : (after (exec (.wrCtrl 0xFFFFFFFC#32) st)).map
    (fun s => (ctrlWord s.ctrl, statusWord s.status)) = some (0#32, 0#32) := by decide

/-- `wr CTRL, 0x2` from `CTRL = 0x1` would clear `TEN`. -/
theorem test_wrCtrl_refused_when_clearing : (after (exec (.wrCtrl 2#32) (stWith true false false))).map
    (fun s => (ctrlWord s.ctrl, errinfoWord s.errinfo)) = some (1#32, 0x80004000#32) := by decide

theorem test_wrTuning_unlocked : (after (exec (.wrTuning 0x01000000#32) st)).map (·.tuning) = some 0x01000000#32 := by decide

theorem test_wrTuning_locked : (after (exec (.wrTuning 0x01000000#32) (stWith true false false))).map
    (fun s => (s.tuning, errinfoWord s.errinfo)) = some (0x10624DD2#32, 0x80004008#32) := by decide

theorem test_wrPhase_unlocked : (after (exec (.wrPhase 0xFFFFFFFF#32) st)).map (·.phase) = some 0xFFFFFFFF#32 := by decide

/-- `CTRL = 0x2` locks too. -/
theorem test_wrPhase_locked_by_uie : (after (exec (.wrPhase 0#32) (stWith false true false))).map
    (fun s => errinfoWord s.errinfo) = some 0x8000400C#32 := by decide

theorem test_wrCmp_largest : (after (exec (.wrCmp 0xFFFF#32) st)).map
    (fun s => (s.cmp, statusWord s.status)) = some (0xFFFF#32, 0#32) := by decide

theorem test_wrCmp_out_of_range : (after (exec (.wrCmp 0x10000#32) st)).map
    (fun s => (s.cmp, errinfoWord s.errinfo)) = some (0#32, 0x80004010#32) := by decide

/-- `wr STATUS` cannot clear `UIF`. -/
theorem test_wrRefused_status : (after (exec (.wrRefused 0x004#14 1#32) (stWith true false true))).map
    (fun s => (statusWord s.status, errinfoWord s.errinfo)) = some (5#32, 0x80004004#32) := by decide

/-- A second refusal leaves the record. -/
theorem test_wrRefused_second : (after (exec (.wrRefused 0x1040#14 0#32)
    { st with status := ⟨false, false, true⟩, errinfo := ⟨true, false, 0x1400#14⟩ })).map
    (fun s => errinfoWord s.errinfo) = some 0x80001400#32 := by decide

/-! ### Events (R120, R124, R200; 95_test_vectors.md 2.2, 2.3, 2.5) -/

theorem test_tick_table : (after (exec .tick (stWith true false false))).map (·.status) = some ⟨true, false, false⟩ ∧
    (after (exec .tick (stWith true false true))).map (·.status) = some ⟨true, false, false⟩ ∧
    (after (exec .tick (stWith true true false))).map (·.status) = some ⟨true, false, false⟩ ∧
    (after (exec .tick (stWith true true true))).map (·.status) = some ⟨true, true, false⟩ := by decide

theorem test_tick_not_enabled : refusal (exec .tick (stWith false true true)) = some .tickNotEnabled := by decide

/-- V3 and the wrap V1; the test table has `W[16] = 16`. -/
theorem test_update_v1_v3 : (after (exec .update (stWith true true true))).map (fun s => (s.phase, s.cmp, s.status.uif)) =
      some (0x10624DD2#32, 0x80#32, false) ∧
    (after (exec .update { stWith true true true with phase := 0xFFFFFFFF#32 })).map (fun s => (s.phase, s.cmp)) =
      some (0x10624DD1#32, 0x80#32) := by decide

theorem test_update_not_enabled : refusal (exec .update (stWith true true false)) = some .updateNotEnabled ∧
    refusal (exec .update (stWith true false true)) = some .updateNotEnabled := by decide

/-- 95_test_vectors.md 2.5. -/
theorem test_reset_from_faulted : (after (exec .reset { st with
    ctrl := ⟨true, true⟩, status := ⟨true, true, true⟩, errinfo := ⟨true, true, 0x008#14⟩, phase := 0x3126E976#32,
    tuning := 0x01000000#32, cmp := 0x123#32 })).map
    (fun s => (s.ctrl, s.status, errinfoWord s.errinfo, s.phase, s.tuning, s.cmp)) =
    some (⟨false, false⟩, ⟨false, false, false⟩, 0#32, 0#32, 0x10624DD2#32, 0#32) := by decide

/-! ### The engine (95_test_vectors.md 2.1) -/

theorem test_phaseAdvance : phaseAdvance 0x7FFFFFFF#32 1#32 = 0x80000000#32 ∧
    phaseAdvance 0xFFFFFFFF#32 0xFFFFFFFF#32 = 0xFFFFFFFE#32 ∧
    phaseAdvance 0x12345678#32 0x10624DD2#32 = 0x2296A44A#32 := by decide

theorem test_tableIndex_sizes : tableIndex testParams 0x2296A44A#32 = 0x22 ∧
    tableIndex { testParams with tableBits := 1 } 0x7FFFFFFF#32 = 0 ∧
    tableIndex { testParams with tableBits := 1 } 0x80000000#32 = 1 ∧
    tableIndex { testParams with tableBits := 10 } 0xFFFFFFFF#32 = 1023 ∧
    tableIndex { testParams with tableBits := 10 } 0x003FFFFF#32 = 0 := by decide

theorem test_widen : widen testParams 0xFF#16 = 0x07F8#32 ∧
    widen { testParams with sampleWidth := 16, shift := 16, cmpWidth := 32 } 0xFFFF#16 = 0xFFFF0000#32 ∧
    widen { testParams with shift := 0 } 0xFF#16 = 0xFF#32 := by decide

/-! ### Presentations and steps -/

/-- The word laid down after reset is performed by the next step. -/
theorem test_step_runs_word : (after (step (State.reset.withFetchWord 16 0x8001))).map (fun s => (s.phase, s.cmp)) =
    some (0x10624DD2#32, 0x80#32) := by decide

/-- A reserved word, and a TICK from the setup agent, are refused (R75, R76). -/
theorem test_step_refusals : refusal (step (State.reset.withFetchWord 16 0x8003)) = some (.reservedWord 0x8003#16) ∧
    refusal (step (State.layDown ⟨.setup, ⟨0x8000#16, none⟩⟩ (stWith true true false))) = some (.wrongAgent .setup) := by
  decide

/-- The byte lanes of `TUNING` at `DDS_BASE + 0x008` (R51, R52). -/
theorem test_hostByte_lanes : st.hostByte 0x40000008 = some 0xD2#8 ∧ st.hostByte 0x4000000B = some 0x10#8 ∧
    st.hostByte 0x40001040 = some 0x10#8 ∧ st.hostByte 0x40004000 = none := by decide

/-- Lines of the spec's listings (R77, R78). -/
theorem test_script_lines : assembleText "wr TUNING, 0x01000000   ; tuning".toList = some [⟨0x4008#16, some 0x01000000#32⟩] ∧
    assembleText "rd TABLE[16]".toList = some [⟨0x1040#16, none⟩] ∧ assembleText "RD 0x1400".toList = some [⟨0x1400#16, none⟩] ∧
    assembleText "service*1".toList = some [⟨0x8000#16, none⟩, ⟨0x8001#16, none⟩] ∧
    assembleText "arm".toList = some [⟨0x4000#16, some 3#32⟩] ∧ assembleText "; only a comment".toList = some [] ∧
    assembleText "halt".toList = none := by decide

/-! ### Witnesses: states and operands that meet the hypotheses of the statements, at the boundaries of their clauses -/

/-- `ReadOfTableReturnsEntry`: the first and the last entry. -/
theorem witness_table_index : (0#10).toNat < st.inst.params.tableSize ∧ (255#10).toNat < st.inst.params.tableSize := by decide

/-- `ReadOfUnmappedIsRefused`, `EveryReadFollowsTheMap`: the offsets next to the mapped ones. -/
theorem witness_unmapped : mappedOffset 8 0x01C#14 = false ∧ mappedOffset 8 0x0FFC#14 = false ∧
    mappedOffset 8 0x1400#14 = false ∧ mappedOffset 8 0x001#14 = false ∧ mappedOffset 8 0x3FFF#14 = false ∧
    mappedOffset 8 0x018#14 = true ∧ mappedOffset 8 0x1000#14 = true ∧ mappedOffset 8 0x13FC#14 = true := by decide

/-- `EveryReadFollowsTheMap`: reads that decode, mapped and not. -/
theorem witness_read_decodes : decode 8 ⟨formatWord 0b00#2 0x018#14, none⟩ = .ok .rdErrinfo ∧
    decode 8 ⟨formatWord 0b00#2 0x01C#14, none⟩ = .ok (.rdRefused 0x01C#14) := by decide

/-- `WriteElsewhereIsRefused`: offsets next to the writable ones. -/
theorem witness_not_writable : writableOffset 0x004#14 = false ∧ writableOffset 0x00B#14 = false ∧
    writableOffset 0x014#14 = false ∧ writableOffset 0x3FFF#14 = false := by decide

/-- `ReadOfTuningReturnsIt`, `ReadOfErrinfoReturnsRecord`: an operation completes on a locked state that holds a record, and
the other clause's record is the one after reset. -/
theorem witness_locked_with_record :
    ({ stWith true true false with errinfo := ⟨true, true, 0x008#14⟩ } : State).locked = true ∧
    (after (exec (.wrTuning 1#32) { stWith true true false with errinfo := ⟨true, true, 0x008#14⟩ })).map
      (fun s => (s.tuning, s.errinfo)) = some (0x10624DD2#32, ⟨true, true, 0x008#14⟩) ∧
    st.errinfo = (State.initial st.inst).errinfo := by decide

/-- `ReadOfParamReturnsFields`, `ReadOfTableReturnsEntry`: an operation that completes, RESET. -/
theorem witness_reset_completes : (after (exec .reset (stWith true true true))).isSome = true := by decide

/-- `TickSetsPendingAndOverrun`, `UpdatePublishesOneEngineStep`, and the first clause of
`EitherOrderAdmittedOneFaultEach`. -/
theorem witness_tick_and_update_enabled : (stWith true true true).ctrl.ten = true ∧
    (stWith true true true).status.uif = true ∧ (stWith true true true).ctrl.uie = true := by decide

/-- `WriteOfCtrlOnlySets`: a write in each clause, at `D = 2` from `CTRL = 1` and from `CTRL = 0`. -/
theorem witness_wrCtrl_clauses :
    (exec (.wrCtrl 2#32) (stWith true false false) = .next ((stWith true false false).withRefusal true 0x000#14)) ∧
    (exec (.wrCtrl 2#32) st = .next { st with ctrl := ⟨false, true⟩ }) := ⟨rfl, rfl⟩

/-- `WriteOfCmpInRangeWhileUnlocked`: the two sides of the range's end, and the lock. -/
theorem witness_wrCmp_clauses : (0xFFFF#32).toNat < 2 ^ st.inst.params.cmpWidth ∧
    2 ^ st.inst.params.cmpWidth ≤ (0x10000#32).toNat ∧ st.locked = false ∧ (stWith false true false).locked = true := by decide

/-- `WideningLosesNoBit`: the largest and the smallest sample of the test table. -/
theorem witness_samples : 0xFF#16 ∈ st.inst.params.waveTable ∧ 0#16 ∈ st.inst.params.waveTable := by decide +kernel

/-- `ServicesReachClosedForm`, `PublishedValuesAreDetermined` (with `t` the state of other `CMP` and `ERRINFO`). -/
theorem witness_services : (stWith true true false).ctrl.ten = true ∧ (stWith true true false).ctrl.uie = true ∧
    (stWith true true false).status.uif = false ∧
    ({ stWith true true false with cmp := 5#32, errinfo := ⟨true, true, 0#14⟩ } : State).phase =
      (stWith true true false).phase := by decide

/-- `FullCycleVisitsEveryIndex`: the reference tuning word `0x01000000`, the first and the last step. -/
theorem witness_full_cycle : ({ stWith true true false with tuning := 0x01000000#32 } : State).tuning.toNat =
      2 ^ (32 - st.inst.params.tableBits) ∧ st.phase = 0#32 ∧
    1 ≤ st.inst.params.tableSize ∧ st.inst.params.tableSize ≤ st.inst.params.tableSize := by decide

/-- `DecodeOfEncodeIsIdentity`, `FaultsComeFromTheirCauses`: well-formed operations with operands. -/
theorem witness_well_formed : (Instr.rdTable 255#10).wf 8 = true ∧ (Instr.rdRefused 0x3FFF#14).wf 8 = true ∧
    (Instr.wrRefused 0x014#14 0#32).wf 8 = true := by decide

/-- `DecodedWordsAreTheEncoding`. -/
theorem witness_decoded : decode 10 ⟨0x1FFC#16, none⟩ = .ok (.rdTable 1023#10) := by decide

/-- `ReservedWordsAreRefused`: the words on both sides of `0x8003`, and a state that has one pending. -/
theorem witness_reserved : 0x8003 ≤ (0x8003#16).toNat ∧ (0x8002#16).toNat < 0x8003 ∧
    ({ st with pending := [⟨.setup, ⟨0x8003#16, none⟩⟩] } : State).pending = ⟨.setup, ⟨0x8003#16, none⟩⟩ :: [] := by decide

/-- `StepRunsTheDecodedOperation`: a write from the setup agent. -/
theorem witness_step_runs : (st.withFetchWord 48 0x000000034000).pending = ⟨.setup, ⟨0x4000#16, some 3#32⟩⟩ :: [] ∧
    decode st.inst.params.tableBits ⟨0x4000#16, some 3#32⟩ = .ok (.wrCtrl 3#32) ∧ agentOf (.wrCtrl 3#32) = .setup := by decide

/-- `AgentsPresentTheirClassOnly`: an UPDATE from the timer agent. -/
theorem witness_wrong_agent : decode st.inst.params.tableBits ⟨0x8001#16, none⟩ = .ok .update ∧
    agentOf .update ≠ .timer := by decide

/-- `FreeTurnTakesAnEnabledStep`, `EveryStepKeepsInvariant`, `TableAndParametersNeverChange`: nothing is pending after
reset, reset meets the invariant, and a step from a state with an operation laid down completes. -/
theorem witness_free_turn_and_invariant : st.pending = [] ∧ st.Inv ∧ (st.withFetchWord 16 0x0000).Inv ∧
    (after (step (st.withFetchWord 16 0x0000))).isSome = true := by decide

/-- `LockedOutputsOnlyUpdated`, `EnablesClearOnlyByReset`: a locked state in which TICK completes. -/
theorem witness_locked : (stWith true true false).locked = true ∧
    (after (exec .tick (stWith true true false))).isSome = true := by decide

/-- `TuningChangesOnlyByItsWrite`: both ways in which `TUNING` changes. -/
theorem witness_tuning_changes : (after (exec (.wrTuning 1#32) st)).map (·.tuning) ≠ some st.tuning ∧
    (after (exec .reset { st with tuning := 1#32 })).map (·.tuning) ≠ some 1#32 := by decide

/-- `FirstRefusalIsKept`, `FaultBitsClearOnlyByReset`: a refusal on a state that holds a record and both fault bits. -/
theorem witness_record_held : ({ st with errinfo := ⟨true, false, 0x1400#14⟩ } : State).errinfo.valid = true ∧
    (after (exec (.rdRefused 2#14) { st with status := ⟨false, true, true⟩ })).map (·.status) =
      some ⟨false, true, true⟩ := by decide

/-- `FirstRefusalIsKept`: operations that write the record, each with its own direction and offset (R29). -/
theorem witness_record_written : (after (exec (.rdRefused 0x1400#14) st)).map (·.errinfo) = some ⟨true, false, 0x1400#14⟩ ∧
    (after (exec (.wrPhase 0#32) (stWith true false false))).map (·.errinfo) = some ⟨true, true, 0x00C#14⟩ ∧
    st.errinfo.valid = false := by decide

/-- `PendingTickClearsOnlyByService`: UPDATE and RESET clear a pending tick. -/
theorem witness_pending_cleared : (after (exec .update (stWith true true true))).map (·.status.uif) = some false ∧
    (after (exec .reset (stWith true true true))).map (·.status.uif) = some false := by decide

/-- `EitherOrderAdmittedOneFaultEach`: a WR_CMP both locked and just out of range. -/
theorem witness_refused_twice_over : (stWith true false false).locked = true ∧
    2 ^ (stWith true false false).inst.params.cmpWidth ≤ (0x10000#32).toNat ∧
    (stWith true false false).errinfo.valid = false ∧
    (after (exec (.wrCmp 0x10000#32) (stWith true false false))).map (fun s => errinfoWord s.errinfo) =
      some 0x80004010#32 := by decide

/-- `SilenceWhileNotStartedOrNotArmed`: runs that end not armed, and not started. -/
theorem witness_silence : (after (runOps [.wrCtrl 1#32, .tick, .tick] st)).map (·.ctrl) = some ⟨true, false⟩ ∧
    (after (runOps [.wrTuning 1#32, .wrCtrl 2#32, .rdPhase] st)).map (·.ctrl) = some ⟨false, true⟩ ∧
    st.status.uif = false ∧ Instr.reset ∉ [Instr.wrCtrl 1#32, .tick, .tick] ∧
    Instr.reset ∉ [Instr.wrTuning 1#32, .wrCtrl 2#32, .rdPhase] := by decide

/-- The states of the run of period two of a block with tuning word 0. -/
def fairStates (n : Nat) : State :=
  { stWith true true (decide (n % 2 = 1)) with tuning := 0#32 }

/-- Its operations: TICK and UPDATE in turn. -/
def fairOps (n : Nat) : Option Instr := some (if n % 2 = 1 then .update else .tick)

/-- `FairRunsTickAndUpdateForever`: TICK and UPDATE in turn are a run, fair to both agents. -/
theorem witness_fair_run : IsRun fairStates fairOps ∧ (∀ n, fairOps n ≠ some .reset) ∧
    WeaklyFair .tick fairStates fairOps ∧ WeaklyFair .update fairStates fairOps ∧
    (fairStates 0).ctrl.ten = true ∧ (fairStates 0).ctrl.uie = true := by
  have htick : exec .tick (fairStates 0) = .next (fairStates 1) := by rfl
  have hupdate : exec .update (fairStates 1) = .next (fairStates 0) := by rfl
  refine ⟨fun n => ?_, fun n => ?_, fun n _ => ⟨2 * n, by omega, ?_⟩, fun n _ => ⟨2 * n + 1, by omega, ?_⟩, rfl, rfl⟩
  · obtain h | h := Nat.mod_two_eq_zero_or_one n
    · simpa [fairOps, fairStates, h, show (n + 1) % 2 = 1 by omega] using htick
    · simpa [fairOps, fairStates, h, show (n + 1) % 2 = 0 by omega] using hupdate
  · by_cases h : n % 2 = 1 <;> simp [fairOps, h]
  · simp [fairOps]
  · simp [fairOps, Nat.add_mod]

/-- `ArmingServicesPendingTick`. -/
theorem witness_unarmed : (stWith true false true).ctrl.ten = true ∧ (stWith true false true).ctrl.uie = false ∧
    (stWith true false true).status.uif = true := by decide

/-- `NoUpdateWithoutANewTick`: an UPDATE, then operations without a TICK that complete. -/
theorem witness_after_update : (after (exec .update (stWith true true true))).isSome = true ∧
    Instr.tick ∉ [Instr.rdPhase, .wrTuning 1#32] ∧
    (after (runOps [.rdPhase, .wrTuning 1#32] (stWith true true false))).isSome = true := by decide

/-- `UpdatesCountUnmergedTicks`: a run with a merged tick and a tick pending at its end. -/
theorem witness_counted_run : (after (runOps [.tick, .tick, .update, .tick] (stWith true true false))).map (·.status.uif) =
      some true ∧ mergedTicks [.tick, .tick, .update, .tick] (stWith true true false) = 1 ∧
    Instr.reset ∉ [Instr.tick, .tick, .update, .tick] := by decide

/-- `ConfigurationOrderIsFree`: an order of the three writes other than the listed one. -/
theorem witness_configuration_order : st.locked = false ∧ (0x400#32).toNat < 2 ^ st.inst.params.cmpWidth ∧
    [Instr.wrCmp 0x400#32, .wrTuning 1#32, .wrPhase 2#32].Perm [.wrTuning 1#32, .wrPhase 2#32, .wrCmp 0x400#32] := by decide

/-- `HostBytesAreLittleEndianLanes`: the last aligned word, its last lane and bit. -/
theorem witness_last_lane : (0x3FFC#14).toNat % 4 = 0 ∧ 3 < 4 ∧ 7 < 8 := by decide

/-- `ReadsChangeNoByte`, `WritesChangeOnlyTheirWord`, `RefusalsChangeOnlyTheRecord`, `EventsChangeOnlyTheirWords`: the
operations complete, and there are bytes outside the words that each may change. -/
theorem witness_frames : (after (exec .rdPhase st)).isSome = true ∧ (after (exec (.wrPhase 1#32) st)).isSome = true ∧
    (after (exec (.wrRefused 0x3FFF#14 1#32) st)).isSome = true ∧
    (after (exec .update (stWith true true true))).isSome = true ∧
    (0x013#14).toNat / 4 ≠ 0x004 / 4 ∧ (0x013#14).toNat / 4 ≠ 0x018 / 4 ∧
    (0x013#14).toNat / 4 ≠ (regOffset .phase).toNat / 4 := by decide

end Sys2Proof.Tests
end

section
/-! PROOFS of the family 00_scope.md: what a well-formed parameter set is (R8), when an operation completes (R13, R120,
R124), and what a step does with and without a presentation laid down (R15, R55, R76). -/

namespace Sys2Proof

/-! ### Parameter sets and instances -/

/-- R8 as one conjunction of propositions. -/
theorem Params.wf_iff (p : Params) :
    p.wf = true ↔
      (1 ≤ p.tableBits ∧ p.tableBits ≤ 10) ∧ (1 ≤ p.sampleWidth ∧ p.sampleWidth ≤ 16) ∧ p.shift ≤ 31 ∧
        (p.sampleWidth + p.shift ≤ p.cmpWidth ∧ p.cmpWidth ≤ 32) ∧ p.waveTable.length = p.tableSize ∧
        ∀ x ∈ p.waveTable, x.toNat < 2 ^ p.sampleWidth := by
  simp only [Params.wf, Bool.and_eq_true, decide_eq_true_eq, List.all_eq_true, and_assoc]

/-- An instance is refused exactly when its parameters are not well formed. -/
theorem Instance.ofParams_eq_none_iff (p : Params) : Instance.ofParams p = none ↔ ¬p.wf = true := by
  by_cases h : p.wf = true <;> simp [Instance.ofParams, h]

/-- The instance of a parameter set has these parameters. -/
theorem Instance.params_of_ofParams {p : Params} {inst : Instance} (h : Instance.ofParams p = some inst) :
    inst.params = p := by
  unfold Instance.ofParams at h
  split at h <;> cases h
  rfl

/-- Settles O55: `Instance.ofParams` tests `Params.wf`, which is R8's list of conditions. -/
theorem illFormedParametersAreRefused : Obligations.IllFormedParametersAreRefused := by
  unfold Obligations.IllFormedParametersAreRefused
  intro p
  rw [Instance.ofParams_eq_none_iff, Params.wf_iff]
  exact ⟨Iff.rfl, fun _ => Instance.params_of_ofParams⟩

namespace Machine

/-! ### When an operation completes -/

/-- TICK completes exactly while the timer is started (R120). -/
theorem execTick_completes_iff (s : State) : (∃ t, execTick s = .next t) ↔ s.tickEnabled = true := by
  cases h : s.tickEnabled <;> simp [execTick, h]

/-- UPDATE completes exactly while a tick is pending and the update is armed (R124). -/
theorem execUpdate_completes_iff (s : State) : (∃ t, execUpdate s = .next t) ↔ s.updateEnabled = true := by
  cases h : s.updateEnabled <;> simp [execUpdate, h]

/-- TICK and UPDATE complete exactly when enabled; every other operation is always enabled and always completes. -/
theorem exec_completes_iff (i : Instr) (s : State) : (∃ t, exec i s = .next t) ↔ enabled i s = true := by
  cases i with
  | tick => exact execTick_completes_iff s
  | update => exact execUpdate_completes_iff s
  | _ => exact ⟨fun _ => rfl, fun _ => ⟨_, rfl⟩⟩

/-- Settles O37, by the split over the operations: only TICK and UPDATE have a condition. -/
theorem operationCompletesIffEnabled : Obligations.OperationCompletesIffEnabled :=
  exec_completes_iff

/-- Enabling conditions read the block's registers alone, not the model's own fields. -/
theorem enabled_modelFields (i : Instr) (s : State) (r : Option Word) (l : List Presentation) (n : Nat) :
    enabled i { s with returned := r, pending := l, turn := n } = enabled i s := by
  cases i <;> rfl

/-! ### The turn that a step takes -/

/-- The oldest presentation laid down has the next turn (R55). -/
theorem nextTurn_cons {s : State} {p : Presentation} {rest : List Presentation} (h : s.pending = p :: rest) :
    nextTurn s = laidDownTurn p { s with pending := rest, returned := none } := by
  simp only [nextTurn, h]

/-- With nothing laid down the next turn is one of the free order (R15). -/
theorem nextTurn_nil {s : State} (h : s.pending = []) :
    nextTurn s = freeTurn (Config.freePresentation s.turn) { s with turn := s.turn + 1, returned := none } := by
  simp only [nextTurn, h]

/-- A laid-down presentation that is accepted is performed. -/
theorem laidDownTurn_of_accept {p : Presentation} {s : State} {i : Instr} (h : accept p s = .ok i) :
    laidDownTurn p s = .perform i s := by
  simp only [laidDownTurn, h]

/-- A step whose turn performs an operation is that operation (R13). -/
theorem step_of_perform {s s' : State} {i : Instr} (h : nextTurn s = .perform i s') : step s = exec i s' := by
  simp only [step, h]

/-- A step whose turn passes goes on without an operation. -/
theorem step_of_pass {s s' : State} (h : nextTurn s = .pass s') : step s = .next s' := by
  simp only [step, h]

/-- Settles O34: the presentation is accepted, so its turn performs `i`. -/
theorem stepRunsTheDecodedOperation : Obligations.StepRunsTheDecodedOperation := by
  unfold Obligations.StepRunsTheDecodedOperation
  intro s p rest i hp hdecode hagent
  have hacc : accept p { s with pending := rest, returned := none } = .ok i := accept_eq_ok.2 ⟨hdecode, hagent⟩
  exact step_of_perform ((nextTurn_cons hp).trans (laidDownTurn_of_accept hacc))

/-- Settles O36: a free turn passes or performs an accepted and enabled operation, and an enabled one completes. -/
theorem freeTurnTakesAnEnabledStep : Obligations.FreeTurnTakesAnEnabledStep := by
  unfold Obligations.FreeTurnTakesAnEnabledStep
  intro s hp
  obtain ⟨i, hacc, hen, hturn⟩ | hturn :=
    freeTurn_cases (Config.freePresentation s.turn) { s with turn := s.turn + 1, returned := none }
  · obtain ⟨t, ht⟩ := (exec_completes_iff i _).2 hen
    obtain ⟨hdecode, hagent⟩ := accept_eq_ok.1 hacc
    have hstep := step_of_perform ((nextTurn_nil hp).trans hturn)
    exact .inr ⟨i, t, hstep.trans ht, (enabled_modelFields ..).symm.trans hen, ht, hdecode, hagent⟩
  · exact .inl (step_of_pass ((nextTurn_nil hp).trans hturn))

end Machine

end Sys2Proof
end

section
/-! PROOFS of the family 10_state.md: the register invariant (R27, R29, R120, R129, R181) and what each operation may
change of the instance (R30), `PHASE` and `CMP` (R34, R127), `TUNING` (R25), the enables (R23) and `ERRINFO` (R29). -/

namespace Sys2Proof.Machine

/-! ### The compare value is in range -/

/-- The advanced accumulator's top bits index the table (R101, R106). -/
theorem tableIndex_lt_tableSize (inst : Instance) (acc : Word) :
    tableIndex inst.params acc < inst.params.tableSize := by
  obtain ⟨⟨-, htb⟩, -⟩ := inst.bounds
  rw [tableIndex_eq, Params.tableSize, Nat.div_lt_iff_lt_mul (Nat.two_pow_pos _), ← pow_add]
  exact lt_of_lt_of_le acc.isLt (Nat.pow_le_pow_right (by decide) (by omega))

/-- What the engine publishes fits in `CMP` (R27, R103). -/
theorem compareValue_lt (inst : Instance) (acc : Word) :
    (compareValue inst.params acc).toNat < 2 ^ inst.params.cmpWidth := by
  have hfit := sample_shift_lt inst (tableRead_mem inst (tableIndex_lt_tableSize inst acc))
  rw [compareValue, widen, Nat.shiftLeft_eq, BitVec.toNat_ofNat]
  exact lt_of_le_of_lt (Nat.mod_le ..) hfit

/-! ### The record of a refused access -/

/-- A record that is held stays (R29). -/
theorem State.withRefusal_errinfo_of_valid {s : State} (wr : Bool) (off : Offset) (h : s.errinfo.valid = true) :
    (s.withRefusal wr off).errinfo = s.errinfo :=
  if_pos h

/-- A refusal changes the record only to that of its own access (R29). -/
theorem State.withRefusal_errinfo_of_ne {s : State} {wr : Bool} {off : Offset}
    (h : (s.withRefusal wr off).errinfo ≠ s.errinfo) : (s.withRefusal wr off).errinfo = ⟨true, wr, off⟩ :=
  if_neg fun hvalid => h (State.withRefusal_errinfo_of_valid wr off hvalid)

/-- After a refusal a record is held (R29, R181). -/
theorem State.withRefusal_errinfo_valid (wr : Bool) (off : Offset) (s : State) :
    (s.withRefusal wr off).errinfo.valid = true := by
  unfold State.withRefusal
  split
  · assumption
  · rfl

/-! ### What every step keeps -/

/-- What every operation keeps and the model's own fields do not enter is kept by every step. -/
theorem step_preserves {P : State → Prop}
    (hmodel : ∀ s r l n, P s → P { s with returned := r, pending := l, turn := n })
    (hexec : ∀ i s t, P s → exec i s = .next t → P t) {s t : State} (hs : P s) (h : step s = .next t) : P t := by
  obtain ⟨l, n, ⟨i, hi⟩ | rfl⟩ := step_cases h
  · exact hexec i _ t (hmodel s none l n hs) hi
  · exact hmodel s none l n hs

/-- Recording a refused access keeps the invariant. -/
theorem State.Inv.withRefusal {s : State} (h : s.Inv) (wr : Bool) (off : Offset) : (s.withRefusal wr off).Inv := by
  obtain ⟨hcmp, -, -, huif, hovr⟩ := h
  have hvalid := s.withRefusal_errinfo_valid wr off
  exact ⟨hcmp, hvalid.symm, fun hinvalid => absurd hvalid (by simp [hinvalid]), huif, hovr⟩

/-- TICK comes only of a started block, and it records an overrun only of an armed one (R120). -/
theorem inv_of_tick {s : State} (h : s.Inv) (ht : s.ctrl.ten = true) :
    State.Inv { s with status := ⟨true, s.status.ovr || (s.status.uif && s.ctrl.uie), s.status.cfgerr⟩ } := by
  obtain ⟨hcmp, hcfgerr, hrecord, -, hovr⟩ := h
  refine ⟨hcmp, hcfgerr, hrecord, fun _ => ht, fun hset => ?_⟩
  simp only [Bool.or_eq_true, Bool.and_eq_true] at hset
  exact hset.elim hovr fun hoverrun => ⟨ht, hoverrun.2⟩

/-- Every operation keeps the invariant. -/
theorem exec_keeps_inv (i : Instr) (s t : State) (hs : s.Inv) (h : exec i s = .next t) : t.Inv := by
  have ⟨hcmp, hcfgerr, hrecord, huif, hovr⟩ := hs
  cases exec_cases h with
  | read | wrTuning | wrPhase => exact hs
  | refusedRead => exact State.Inv.withRefusal (s := { s with returned := some 0#32 }) hs false _
  | refusedWrite => exact hs.withRefusal true _
  | wrCtrl d hten huie =>
    exact ⟨hcmp, hcfgerr, hrecord, fun hf => hten (huif hf), fun ho => (hovr ho).imp hten huie⟩
  | wrCmp d _ hd => exact ⟨hd, hcfgerr, hrecord, huif, hovr⟩
  | tick ht => exact inv_of_tick hs ht
  | update => exact ⟨compareValue_lt s.inst _, hcfgerr, hrecord, nofun, hovr⟩
  | reset => exact ⟨Nat.two_pow_pos _, rfl, fun _ => rfl, nofun, nofun⟩

/-- Settles O38: every operation keeps the invariant, and the model's own fields do not enter it. -/
theorem everyStepKeepsInvariant : Obligations.EveryStepKeepsInvariant := fun _ _ =>
  step_preserves (P := State.Inv) (fun _ _ _ _ hs => hs) exec_keeps_inv

/-- No operation changes the instance (R30). -/
theorem exec_inst {i : Instr} {s t : State} (h : exec i s = .next t) : t.inst = s.inst := by
  cases exec_cases h <;> rfl

/-- Settles O40: no operation changes the instance, and no turn does. -/
theorem tableAndParametersNeverChange : Obligations.TableAndParametersNeverChange := fun s _ =>
  step_preserves (P := fun u => u.inst = s.inst) (fun _ _ _ _ hu => hu)
    (fun _ _ _ hu h => (exec_inst h).trans hu) rfl

/-! ### What changes a register -/

/-- Settles O41: of the operations that write `PHASE` or `CMP`, the two bus writes need the block unlocked. -/
theorem lockedOutputsOnlyUpdated : Obligations.LockedOutputsOnlyUpdated := by
  unfold Obligations.LockedOutputsOnlyUpdated
  intro i s t hlocked hupdate hreset h
  cases exec_cases h with
  | wrPhase d hl | wrCmp d hl => simp [hl] at hlocked
  | update => exact absurd rfl hupdate
  | reset => exact absurd rfl hreset
  | _ => exact ⟨rfl, rfl⟩

/-- Settles O42: `TUNING` is written by a WR_TUNING that is taken, which needs the block unlocked, and by RESET. -/
theorem tuningChangesOnlyByItsWrite : Obligations.TuningChangesOnlyByItsWrite := by
  unfold Obligations.TuningChangesOnlyByItsWrite
  intro i s t h hne
  cases exec_cases h with
  | wrTuning d hl => exact .inr ⟨hl, rfl⟩
  | reset => exact .inl rfl
  | _ => exact absurd rfl hne

/-- Settles O43: but for RESET only a WR_CTRL that is taken writes the enables, and it keeps every set one. -/
theorem enablesClearOnlyByReset : Obligations.EnablesClearOnlyByReset := by
  unfold Obligations.EnablesClearOnlyByReset
  intro i s t hreset h
  cases exec_cases h with
  | wrCtrl d hten huie => exact ⟨hten, huie⟩
  | reset => exact absurd rfl hreset
  | _ => exact ⟨id, id⟩

/-! ### Whose access `ERRINFO` records -/

/-- The word of a read that is refused has the class of a read (R71). -/
theorem classField_of_refusedRead {i : Instr} (h : (∃ off, i = .rdRefused off) ∨ ∃ k, i = .rdTable k) :
    classField (encode i).word = 0b00#2 := by
  obtain ⟨off, rfl⟩ | ⟨k, rfl⟩ := h <;> simp [encode, readWords]

/-- The word of a write has the class of a write (R71). -/
theorem classField_of_write {i : Instr} (h : (∃ d, i = .wrCtrl d) ∨ (∃ d, i = .wrTuning d) ∨ (∃ d, i = .wrPhase d) ∨
    (∃ d, i = .wrCmp d) ∨ ∃ off d, i = .wrRefused off d) : classField (encode i).word = 0b01#2 := by
  obtain ⟨d, rfl⟩ | ⟨d, rfl⟩ | ⟨d, rfl⟩ | ⟨d, rfl⟩ | ⟨off, d, rfl⟩ := h <;> simp [encode, writeWords]

/-- Settles O45: but for RESET only refusals write `ERRINFO`, each of them only an empty one and with its own word's
direction and offset. -/
theorem firstRefusalIsKept : Obligations.FirstRefusalIsKept := by
  unfold Obligations.FirstRefusalIsKept
  intro i s t hreset h
  cases exec_cases h with
  | refusedRead _ hi =>
    rw [classField_of_refusedRead (hi.imp_right fun ⟨k, hk, _⟩ => ⟨k, hk⟩)]
    exact ⟨State.withRefusal_errinfo_of_valid false _, fun hne => ⟨State.withRefusal_errinfo_of_ne hne, rfl⟩⟩
  | refusedWrite _ hi =>
    rw [classField_of_write hi]
    exact ⟨State.withRefusal_errinfo_of_valid true _, fun hne => ⟨State.withRefusal_errinfo_of_ne hne, rfl⟩⟩
  | reset => exact absurd rfl hreset
  | _ => exact ⟨fun _ => rfl, fun hne => absurd rfl hne⟩

end Sys2Proof.Machine
end

section
/-! PROOFS of the family 20_memory.md: the register space as words and byte lanes (R51, R52), what a read at any offset
returns (R53), and which bytes the reads and the register writes leave as they were (R54, R181). -/

namespace Sys2Proof.Machine

/-! ### Words and bytes of the register space -/

/-- At a register's offset the space holds the register's word (R22). -/
theorem State.spaceWord_of_regAt {off : Offset} {r : Reg} (h : regAt off = some r) (s : State) :
    s.spaceWord off = s.regWord r := by
  simp only [State.spaceWord, h]

/-- At an offset of the table window the space holds the entry that the index field names (R22, R72). -/
theorem State.spaceWord_of_inTableWindow {off : Offset} {s : State} (hreg : regAt off = none)
    (h : inTableWindow s.inst.params.tableBits off = true) : s.spaceWord off = s.tableWord (tableIndexField off) := by
  simp only [State.spaceWord, hreg, h, if_true]

/-- A word of the space reads as before when the register at its offset, if there is one, does: the rest is the
instance's. -/
theorem State.spaceWord_congr {s t : State} {off : Offset} (hinst : t.inst = s.inst)
    (hreg : ∀ r, regAt off = some r → t.regWord r = s.regWord r) : t.spaceWord off = s.spaceWord off := by
  cases hr : regAt off with
  | some r => rw [spaceWord_of_regAt hr, spaceWord_of_regAt hr, hreg r hr]
  | none => simp only [State.spaceWord, hr, State.tableWord, hinst]

/-- The aligned word that holds a byte, as a number (R52). -/
theorem alignedOffset_toNat (a : Offset) : (BitVec.ofNat 14 (4 * (a.toNat / 4))).toNat = 4 * (a.toNat / 4) := by
  have := a.isLt
  rw [BitVec.toNat_ofNat]
  omega

/-- A byte reads as before when the register whose word it lies in does. -/
theorem State.spaceByte_congr {s t : State} {a : Offset} (hinst : t.inst = s.inst)
    (hreg : ∀ r, (regOffset r).toNat / 4 = a.toNat / 4 → t.regWord r = s.regWord r) : t.spaceByte a = s.spaceByte a := by
  have hword : t.spaceWord (BitVec.ofNat 14 (4 * (a.toNat / 4))) = s.spaceWord (BitVec.ofNat 14 (4 * (a.toNat / 4))) := by
    refine spaceWord_congr hinst fun r hr => hreg r ?_
    rw [regOffset_of_regAt hr, alignedOffset_toNat]
    omega
  rw [State.spaceByte, State.spaceByte, hword]

/-- The byte at `off + k` of an aligned word is its lane `k` (R52). -/
theorem State.spaceByte_of_lane {off a : Offset} {k : Nat} (halign : off.toNat % 4 = 0) (hk : k < 4)
    (ha : a.toNat = off.toNat + k) (s : State) : s.spaceByte a = byteLane k (s.spaceWord off) := by
  have hlane : a.toNat % 4 = k := by omega
  have hword : BitVec.ofNat 14 (4 * (a.toNat / 4)) = off := by
    apply BitVec.eq_of_toNat_eq
    rw [alignedOffset_toNat]
    omega
  rw [State.spaceByte, hlane, hword]

/-- The block answers at every offset of its space from `DDS_BASE` on (R51). -/
theorem State.hostByte_ddsBase_add (s : State) {n : Nat} (h : n < 0x4000) :
    s.hostByte (s.inst.params.ddsBase + n) = some (s.spaceByte (BitVec.ofNat 14 n)) := by
  rw [State.hostByte, if_pos (by omega), Nat.add_sub_cancel_left]

/-- The bits of a byte lane (R52). -/
theorem getLsbD_byteLane (k : Nat) {j : Nat} (hj : j < 8) (v : Word) :
    (byteLane k v).getLsbD j = v.getLsbD (8 * k + j) := by
  simp [byteLane, hj]

/-- Settles O56: the host's byte lies in the space, where it is lane `k` of the word. -/
theorem hostBytesAreLittleEndianLanes : Obligations.HostBytesAreLittleEndianLanes := by
  unfold Obligations.HostBytesAreLittleEndianLanes
  intro s off k j halign hk hj
  have hrange : off.toNat + k < 0x4000 := by
    have := off.isLt
    omega
  rw [Nat.add_assoc, s.hostByte_ddsBase_add hrange,
    s.spaceByte_of_lane halign hk ((BitVec.toNat_ofNat ..).trans (Nat.mod_eq_of_lt hrange))]
  exact ⟨_, rfl, getLsbD_byteLane k hj _⟩

/-! ### Reads -/

/-- The words of a read decode by the read rows (R71, R74). -/
theorem decode_read (tb : Nat) (off : Offset) :
    decode tb ⟨formatWord 0b00#2 off, none⟩ = .ok (decodeRead tb off) := by
  simp [decode]

/-- A read at a register's offset answers its word (R140 to R145, R147). -/
theorem exec_decodeRead_of_regAt {off : Offset} {r : Reg} (h : regAt off = some r) (tb : Nat) (s : State) :
    exec (decodeRead tb off) s = .next { s with returned := some (s.regWord r) } := by
  simp only [decodeRead, h]
  cases r <;> rfl

/-- RD_TABLE inside the table answers the entry's word (R148). -/
theorem exec_rdTable_of_lt {k : BitVec 10} {s : State} (h : k.toNat < s.inst.params.tableSize) :
    exec (.rdTable k) s = .next { s with returned := some (s.tableWord k) } :=
  congrArg Host.Outcome.next (if_pos h)

/-- A refused read answers 0 and is recorded (R149). -/
theorem exec_rdRefused (off : Offset) (s : State) :
    exec (.rdRefused off) s = .next ({ s with returned := some 0#32 }.withRefusal false off) :=
  congrArg Host.Outcome.next (s.refuseRead_eq off)

/-- The index field of an offset of the table window is below `TABLE_SIZE` (R72). -/
theorem tableIndexField_lt_of_inTableWindow {tb : Nat} {off : Offset} (h : inTableWindow tb off = true) :
    (tableIndexField off).toNat < 2 ^ tb := by
  simp only [inTableWindow, Bool.and_eq_true, decide_eq_true_eq] at h
  exact h.2

/-- Settles O10: an offset is a register's, a table entry's, or not mapped. -/
theorem everyReadFollowsTheMap : Obligations.EveryReadFollowsTheMap := by
  unfold Obligations.EveryReadFollowsTheMap
  intro s off i hdecode
  cases (decode_read _ off).symm.trans hdecode
  have hmap := mappedOffset_iff s.inst.params.tableBits off s.inst.bounds.1.2
  cases hreg : regAt off with
  | some r =>
    rw [if_pos (hmap.2 (.inl (by simp [hreg]))), State.spaceWord_of_regAt hreg, exec_decodeRead_of_regAt hreg]
  | none =>
    by_cases hwin : inTableWindow s.inst.params.tableBits off = true
    · rw [if_pos (hmap.2 (.inr hwin)), State.spaceWord_of_inTableWindow hreg hwin]
      simp only [decodeRead, hreg, hwin, if_true]
      exact exec_rdTable_of_lt (tableIndexField_lt_of_inTableWindow hwin)
    · rw [if_neg fun hmapped => (hmap.1 hmapped).elim (· hreg) hwin]
      simp only [decodeRead, hreg, hwin, Bool.false_eq_true, if_false]
      exact exec_rdRefused off s

/-- A mapped read changes nothing but the value it returns (R54). -/
theorem exec_mappedRead {i : Instr} {s t : State}
    (hi : i ∈ [.rdCtrl, .rdStatus, .rdTuning, .rdPhase, .rdCmp, .rdParam, .rdErrinfo] ∨
      ∃ k : BitVec 10, i = .rdTable k ∧ k.toNat < s.inst.params.tableSize)
    (h : exec i s = .next t) : ∃ r, t = { s with returned := some r } := by
  obtain hnamed | ⟨k, rfl, hk⟩ := hi
  · simp only [List.mem_cons, List.not_mem_nil, or_false] at hnamed
    obtain rfl | rfl | rfl | rfl | rfl | rfl | rfl := hnamed <;> cases h <;> exact ⟨_, rfl⟩
  · cases (exec_rdTable_of_lt hk).symm.trans h
    exact ⟨_, rfl⟩

/-- Settles O57: no register and no byte depends on the value that a read returns. -/
theorem readsChangeNoByte : Obligations.ReadsChangeNoByte := by
  unfold Obligations.ReadsChangeNoByte
  intro i s t hi h
  obtain ⟨r, rfl⟩ := exec_mappedRead hi h
  exact ⟨rfl, rfl, rfl, rfl, rfl, rfl, rfl, rfl, rfl, fun _ => rfl⟩

/-! ### Register writes -/

/-- A refusal shows in no word but those of `STATUS` and `ERRINFO` (R181). -/
theorem State.withRefusal_regWord {r : Reg} (hstatus : r ≠ .status) (herrinfo : r ≠ .errinfo) (wr : Bool) (off : Offset)
    (s : State) : (s.withRefusal wr off).regWord r = s.regWord r := by
  cases r with
  | status => exact absurd rfl hstatus
  | errinfo => exact absurd rfl herrinfo
  | _ => rfl

/-- A refusal changes no byte outside `STATUS` and `ERRINFO` (R181). -/
theorem State.withRefusal_spaceByte {a : Offset} (hstatus : a.toNat / 4 ≠ 0x004 / 4) (herrinfo : a.toNat / 4 ≠ 0x018 / 4)
    (wr : Bool) (off : Offset) (s : State) : (s.withRefusal wr off).spaceByte a = s.spaceByte a := by
  refine spaceByte_congr rfl fun r hr => withRefusal_regWord ?_ ?_ wr off s
  · rintro rfl
    exact hstatus hr.symm
  · rintro rfl
    exact herrinfo hr.symm

/-- `t` is `s` but for the register `r`, one of those that a bus write sets (R22). -/
structure State.DiffersOnlyIn (r : Reg) (s t : State) : Prop where
  ctrl : r ≠ .ctrl → t.ctrl = s.ctrl
  tuning : r ≠ .tuning → t.tuning = s.tuning
  phase : r ≠ .phase → t.phase = s.phase
  cmp : r ≠ .cmp → t.cmp = s.cmp
  record : t.status = s.status ∧ t.errinfo = s.errinfo
  rest : t.inst = s.inst ∧ t.returned = s.returned ∧ t.pending = s.pending ∧ t.turn = s.turn

/-- A change of one register shows in no other register's word. -/
theorem State.DiffersOnlyIn.regWord {r q : Reg} {s t : State} (h : DiffersOnlyIn r s t) (hq : r ≠ q) :
    t.regWord q = s.regWord q := by
  cases q with
  | ctrl => exact congrArg ctrlWord (h.ctrl hq)
  | status => exact congrArg statusWord h.record.1
  | tuning => exact h.tuning hq
  | phase => exact h.phase hq
  | cmp => rw [State.regWord, State.regWord, h.rest.1, h.cmp hq]
  | param => rw [State.regWord, State.regWord, h.rest.1]
  | errinfo => exact congrArg errinfoWord h.record.2

/-- A change of one register changes no byte outside its word. -/
theorem State.DiffersOnlyIn.spaceByte {r : Reg} {s t : State} (h : DiffersOnlyIn r s t) {a : Offset}
    (ha : a.toNat / 4 ≠ (regOffset r).toNat / 4) : t.spaceByte a = s.spaceByte a :=
  spaceByte_congr h.rest.1 fun _ hq => h.regWord fun hrq => ha (hrq ▸ hq.symm)

/-- A register write is refused, or it changes its register alone (R54, R146, R150 to R152). -/
theorem exec_registerWrite {i : Instr} {r : Reg} {d : Word} {s t : State}
    (hi : (i, r) ∈ [(Instr.wrCtrl d, Reg.ctrl), (.wrTuning d, .tuning), (.wrPhase d, .phase), (.wrCmp d, .cmp)])
    (h : exec i s = .next t) : (∃ off, t = s.withRefusal true off) ∨ State.DiffersOnlyIn r s t := by
  simp only [List.mem_cons, Prod.mk.injEq, List.not_mem_nil, or_false] at hi
  cases exec_cases h with
  | refusedWrite => exact .inl ⟨_, rfl⟩
  | wrCtrl d' =>
    obtain ⟨-, rfl⟩ : d' = d ∧ r = .ctrl := by simpa using hi
    exact .inr ⟨(absurd rfl ·), fun _ => rfl, fun _ => rfl, fun _ => rfl, ⟨rfl, rfl⟩, rfl, rfl, rfl, rfl⟩
  | wrTuning d' =>
    obtain ⟨-, rfl⟩ : d' = d ∧ r = .tuning := by simpa using hi
    exact .inr ⟨fun _ => rfl, (absurd rfl ·), fun _ => rfl, fun _ => rfl, ⟨rfl, rfl⟩, rfl, rfl, rfl, rfl⟩
  | wrPhase d' =>
    obtain ⟨-, rfl⟩ : d' = d ∧ r = .phase := by simpa using hi
    exact .inr ⟨fun _ => rfl, fun _ => rfl, (absurd rfl ·), fun _ => rfl, ⟨rfl, rfl⟩, rfl, rfl, rfl, rfl⟩
  | wrCmp d' =>
    obtain ⟨-, rfl⟩ : d' = d ∧ r = .cmp := by simpa using hi
    exact .inr ⟨fun _ => rfl, fun _ => rfl, fun _ => rfl, (absurd rfl ·), ⟨rfl, rfl⟩, rfl, rfl, rfl, rfl⟩
  | read _ _ hread | refusedRead _ hread =>
    obtain ⟨rfl, -⟩ | ⟨rfl, -⟩ | ⟨rfl, -⟩ | ⟨rfl, -⟩ := hi <;> simp at hread
  | tick | update | reset => simp at hi

/-- Settles O58: a refusal shows in `STATUS` and `ERRINFO` and sets `CFGERR`; a write that is taken shows in its own word
alone. -/
theorem writesChangeOnlyTheirWord : Obligations.WritesChangeOnlyTheirWord := by
  unfold Obligations.WritesChangeOnlyTheirWord
  intro i r d s t hi h
  obtain ⟨off, rfl⟩ | hdiff := exec_registerWrite hi h
  · have hset : (s.withRefusal true off).status.cfgerr = true := rfl
    exact ⟨fun a _ hstatus herrinfo => s.withRefusal_spaceByte hstatus herrinfo true off,
      fun hclear => absurd hset (by simp [hclear]), rfl, rfl, rfl, rfl⟩
  · exact ⟨fun a ha _ _ => hdiff.spaceByte ha, fun _ => hdiff.record, hdiff.rest⟩

end Sys2Proof.Machine
end

section
/-! PROOFS of the family 30_encoding.md: the register map and the rows of the opcode map (R72 to R74), decoding against
encoding (R70 to R74), the reserved words (R75) and the agents' rights (R76). -/

namespace Sys2Proof

/-! ### The rows of the opcode map -/

/-- The writable offsets are those of four registers (R22, R153). -/
theorem writableOffset_iff (off : Offset) :
    writableOffset off = true ↔
      off = regOffset .ctrl ∨ off = regOffset .tuning ∨ off = regOffset .phase ∨ off = regOffset .cmp := by
  simp [writableOffset, regOffset, ← BitVec.toNat_inj]

/-- A table entry's offset lies in the window exactly when its index is below `TABLE_SIZE` (R72). -/
theorem inTableWindow_tableOffset {tb : Nat} (htb : tb ≤ 10) (k : BitVec 10) :
    inTableWindow tb (tableOffset k) = true ↔ k.toNat < 2 ^ tb := by
  rw [inTableWindow_iff tb _ htb, tableOffset_toNat]
  omega

/-- A read in the table window is RD_TABLE of its index field (R72, R74). -/
theorem decodeRead_of_inTableWindow {tb : Nat} {off : Offset} (h : inTableWindow tb off = true) :
    decodeRead tb off = .rdTable (tableIndexField off) := by
  have hreg : regAt off = none := tableOffset_of_inTableWindow h ▸ regAt_tableOffset _
  simp only [decodeRead, hreg, h, if_true]

/-- A read that is not mapped is RD_REFUSED (R53, R74). -/
theorem decodeRead_of_unmapped {tb : Nat} {off : Offset} (htb : tb ≤ 10) (h : mappedOffset tb off = false) :
    decodeRead tb off = .rdRefused off := by
  have hmap := (mappedOffset_iff tb off htb).not.1 (by simp [h])
  obtain ⟨hreg, hwin⟩ : regAt off = none ∧ inTableWindow tb off = false := by simpa using hmap
  simp [decodeRead, hreg, hwin]

/-- A write that reaches no writable register is WR_REFUSED (R74, R153). -/
theorem decodeWrite_of_not_writable {off : Offset} (h : writableOffset off = false) (d : Word) :
    decodeWrite off d = .wrRefused off d := by
  cases hreg : regAt off with
  | none => simp only [decodeWrite, hreg]
  | some r =>
    obtain rfl := regOffset_of_regAt hreg
    cases r with
    | ctrl | tuning | phase | cmp => exact absurd h (by decide)
    | status | param | errinfo => rfl

/-- Each event number of the map names one event (R73, R74). -/
theorem decodeEvent_cases {evt : BitVec 14} {i : Instr} (h : decodeEvent evt = some i) :
    (evt = 0#14 ∧ i = .tick) ∨ (evt = 1#14 ∧ i = .update) ∨ (evt = 2#14 ∧ i = .reset) := by
  unfold decodeEvent at h
  split_ifs at h with h0 h1 h2
  · exact .inl ⟨h0, (Option.some.inj h).symm⟩
  · exact .inr (.inl ⟨h1, (Option.some.inj h).symm⟩)
  · exact .inr (.inr ⟨h2, (Option.some.inj h).symm⟩)

/-- The event numbers from 3 on name no event, and all others name one (R71, R75). -/
theorem decodeEvent_eq_none_iff (evt : BitVec 14) : decodeEvent evt = none ↔ 3 ≤ evt.toNat := by
  unfold decodeEvent
  simp only [← BitVec.toNat_inj, BitVec.toNat_ofNat]
  split_ifs <;> simp only [false_iff, true_iff] <;> omega

/-! ### Decoding by class -/

/-- The words of a write decode by the write rows (R71, R74). -/
theorem decode_writeWords (tb : Nat) (off : Offset) (d : Word) :
    decode tb (writeWords off d) = .ok (decodeWrite off d) := by
  simp [decode, writeWords]

/-- The words of an event decode by the event rows (R71, R74). -/
theorem decode_eventWords {evt : BitVec 14} {i : Instr} (h : decodeEvent evt = some i) (tb : Nat) :
    decode tb (eventWords evt) = .ok i := by
  simp [decode, eventWords, h]

/-- A word of the event class with a reserved number spells no operation (R75). -/
theorem decode_reservedEvent {evt : BitVec 14} (h : 3 ≤ evt.toNat) (tb : Nat) (d : Option Word) :
    decode tb ⟨formatWord 0b10#2 evt, d⟩ = .error (.reservedWord (formatWord 0b10#2 evt)) := by
  simp [decode, (decodeEvent_eq_none_iff evt).2 h]

/-- A word of class `11` spells no operation (R75). -/
theorem decode_reservedClass (tb : Nat) (low : BitVec 14) (d : Option Word) :
    decode tb ⟨formatWord 0b11#2 low, d⟩ = .error (.reservedWord (formatWord 0b11#2 low)) := by
  simp [decode]

/-- Every word has one of the four classes (R71). -/
theorem eq_formatWord_cases (w : OpWord) :
    ∃ low, w = formatWord 0b00#2 low ∨ w = formatWord 0b01#2 low ∨ w = formatWord 0b10#2 low ∨
      w = formatWord 0b11#2 low := by
  have hclass : ∀ c : BitVec 2, c = 0b00#2 ∨ c = 0b01#2 ∨ c = 0b10#2 ∨ c = 0b11#2 := by decide
  have hw := formatWord_fields w
  refine ⟨lowField w, ?_⟩
  obtain h | h | h | h := hclass (classField w) <;> simp [← h]

/-- Words that spell an operation are those of a read, of a write or of an event, and its rows give the operation
(R70, R71, R74). -/
theorem decode_cases {tb : Nat} {op : OpWords} {i : Instr} (h : decode tb op = .ok i) :
    (∃ off, op = readWords off ∧ i = decodeRead tb off) ∨
    (∃ off d, op = writeWords off d ∧ i = decodeWrite off d) ∨
    ∃ evt, op = eventWords evt ∧ decodeEvent evt = some i := by
  obtain ⟨w, data⟩ := op
  obtain ⟨low, rfl | rfl | rfl | rfl⟩ := eq_formatWord_cases w
  · cases data with
    | none => exact .inl ⟨low, rfl, (Except.ok.inj ((Machine.decode_read tb low).symm.trans h)).symm⟩
    | some d => simp [decode] at h
  · cases data with
    | none => simp [decode] at h
    | some d => exact .inr (.inl ⟨low, d, rfl, (Except.ok.inj ((decode_writeWords tb low d).symm.trans h)).symm⟩)
  · cases hevt : decodeEvent low with
    | none => simp [decode, hevt] at h
    | some j =>
      cases data with
      | none => exact .inr (.inr ⟨low, rfl, by simpa [decode, hevt] using h⟩)
      | some d => simp [decode, hevt] at h
  · simp [decode] at h

/-! ### Decoding and encoding -/

/-- Settles O30, by the split over the operations: the words of each are those of a read, a write or an event, and its
row of the map is the first that matches because the operation is well formed. -/
theorem decodeOfEncodeIsIdentity : Obligations.DecodeOfEncodeIsIdentity := by
  unfold Obligations.DecodeOfEncodeIsIdentity
  intro tb i htb hwf
  cases i with
  | rdCtrl | rdStatus | rdTuning | rdPhase | rdCmp | rdParam | rdErrinfo => exact Machine.decode_read tb _
  | rdTable k =>
    have hwin := (inTableWindow_tableOffset htb k).2 (of_decide_eq_true hwf)
    rw [encode, readWords, Machine.decode_read, decodeRead_of_inTableWindow hwin, tableIndexField_tableOffset]
  | rdRefused off =>
    have hunmapped : mappedOffset tb off = false := by simpa [Instr.wf] using hwf
    rw [encode, readWords, Machine.decode_read, decodeRead_of_unmapped htb hunmapped]
  | wrCtrl d | wrTuning d | wrPhase d | wrCmp d => exact decode_writeWords tb _ d
  | wrRefused off d =>
    have hrefused : writableOffset off = false := by simpa [Instr.wf] using hwf
    rw [encode, decode_writeWords, decodeWrite_of_not_writable hrefused]
  | tick | update | reset => exact decode_eventWords rfl tb

/-- The read rows give the well-formed operation that the read's words encode (R74). -/
theorem encode_decodeRead {tb : Nat} (htb : tb ≤ 10) (off : Offset) :
    encode (decodeRead tb off) = readWords off ∧ (decodeRead tb off).wf tb = true := by
  by_cases hmap : mappedOffset tb off = true
  · cases hreg : regAt off with
    | some r =>
      obtain rfl := regOffset_of_regAt hreg
      cases r <;> exact ⟨rfl, rfl⟩
    | none =>
      have hwin := ((mappedOffset_iff tb off htb).1 hmap).resolve_left (· hreg)
      have hoff := tableOffset_of_inTableWindow hwin
      rw [decodeRead_of_inTableWindow hwin, encode, hoff]
      exact ⟨rfl, decide_eq_true (Machine.tableIndexField_lt_of_inTableWindow hwin)⟩
  · have hunmapped := eq_false_of_ne_true hmap
    rw [decodeRead_of_unmapped htb hunmapped]
    exact ⟨rfl, by simp [Instr.wf, hunmapped]⟩

/-- The write rows give the well-formed operation that the write's words encode (R74). -/
theorem encode_decodeWrite (tb : Nat) (off : Offset) (d : Word) :
    encode (decodeWrite off d) = writeWords off d ∧ (decodeWrite off d).wf tb = true := by
  by_cases h : writableOffset off = true
  · obtain rfl | rfl | rfl | rfl := (writableOffset_iff off).1 h <;> exact ⟨rfl, rfl⟩
  · have hrefused := eq_false_of_ne_true h
    rw [decodeWrite_of_not_writable hrefused]
    exact ⟨rfl, by simp [Instr.wf, hrefused]⟩

/-- Settles O31: each class of words is encoded by what its rows give. -/
theorem decodedWordsAreTheEncoding : Obligations.DecodedWordsAreTheEncoding := by
  unfold Obligations.DecodedWordsAreTheEncoding
  intro tb op i htb h
  obtain ⟨off, rfl, rfl⟩ | ⟨off, d, rfl, rfl⟩ | ⟨evt, rfl, hevt⟩ := decode_cases h
  · exact encode_decodeRead htb off
  · exact encode_decodeWrite tb off d
  · obtain ⟨rfl, rfl⟩ | ⟨rfl, rfl⟩ | ⟨rfl, rfl⟩ := decodeEvent_cases hevt <;> exact ⟨rfl, rfl⟩

/-- Settles O33: the decoder is run on the six words. -/
theorem specWordsDecode : Obligations.SpecWordsDecode := by
  unfold Obligations.SpecWordsDecode
  decide

/-! ### Reserved words and refusals -/

/-- The words from `0x8003` on spell no operation (R75). -/
theorem decode_reservedWord {w : OpWord} (h : 0x8003 ≤ w.toNat) (tb : Nat) (d : Option Word) :
    decode tb ⟨w, d⟩ = .error (.reservedWord w) := by
  obtain ⟨low, rfl | rfl | rfl | rfl⟩ := eq_formatWord_cases w
  · simp only [formatWord_toNat, BitVec.toNat_ofNat] at h
    omega
  · simp only [formatWord_toNat, BitVec.toNat_ofNat] at h
    omega
  · simp only [formatWord_toNat, BitVec.toNat_ofNat] at h
    exact decode_reservedEvent (by omega) tb d
  · exact decode_reservedClass tb low d

/-- Every word below `0x8003` spells an operation, with a data operand exactly for a write (R70, R74, R75). -/
theorem decode_completes {w : OpWord} (h : w.toNat < 0x8003) (tb : Nat) (d : Word) :
    ∃ i, decode tb ⟨w, if 0x4000 ≤ w.toNat ∧ w.toNat < 0x8000 then some d else none⟩ = .ok i := by
  obtain ⟨low, rfl | rfl | rfl | rfl⟩ := eq_formatWord_cases w
  all_goals simp only [formatWord_toNat, BitVec.toNat_ofNat] at h ⊢
  · rw [if_neg (by omega)]
    exact ⟨_, Machine.decode_read tb low⟩
  · rw [if_pos (by omega)]
    exact ⟨_, decode_writeWords tb low d⟩
  · have hevt : decodeEvent low ≠ none := mt (decodeEvent_eq_none_iff low).1 (by omega)
    obtain ⟨i, hi⟩ := Option.ne_none_iff_exists'.1 hevt
    rw [if_neg (by omega)]
    exact ⟨i, decode_eventWords hi tb⟩
  · omega

namespace Machine

/-- A presentation whose words spell no operation is not accepted (R75). -/
theorem accept_of_decode_error {p : Presentation} {s : State} {e : DecodeError}
    (h : decode s.inst.params.tableBits p.op = .error e) : accept p s = .error (refusalOf e) := by
  simp only [accept, h]

/-- A presentation by an agent other than the operation's is not accepted (R76). -/
theorem accept_of_wrongAgent {p : Presentation} {s : State} {i : Instr}
    (h : decode s.inst.params.tableBits p.op = .ok i) (ha : agentOf i ≠ p.agent) :
    accept p s = .error (.wrongAgent p.agent) := by
  simp only [accept, h, if_neg ha]

/-- A step that meets a laid-down presentation that is not accepted is refused and gives no state (R75, R76). -/
theorem step_of_accept_error {s : State} {p : Presentation} {rest : List Presentation} {r : Refusal}
    (hp : s.pending = p :: rest) (h : accept p { s with pending := rest, returned := none } = .error r) :
    step s = .refused r := by
  simp only [step, nextTurn_cons hp, laidDownTurn, h]

/-- Settles O32: the words split at `0x8003`, and a step refuses words that do not decode. -/
theorem reservedWordsAreRefused : Obligations.ReservedWordsAreRefused := by
  unfold Obligations.ReservedWordsAreRefused
  refine ⟨fun tb w d hw => decode_reservedWord hw tb d, ?_, fun tb w d hw => decode_completes hw tb d⟩
  intro s a w d rest hw hp
  have hdecode := decode_reservedWord hw s.inst.params.tableBits d
  exact step_of_accept_error hp (accept_of_decode_error (e := .reservedWord w) hdecode)

/-- Settles O35: the rights by the split over the operations; a step refuses a presentation that is not accepted. -/
theorem agentsPresentTheirClassOnly : Obligations.AgentsPresentTheirClassOnly := by
  unfold Obligations.AgentsPresentTheirClassOnly
  constructor
  · intro i
    cases i <;> rfl
  · intro s p rest i hp hdecode hagent
    exact step_of_accept_error hp (accept_of_wrongAgent hdecode hagent)

end Machine

end Sys2Proof
end

section
/-! PROOFS of the family 40_dds_engine.md: the engine's index, widening and step (R100 to R106), the closed form of `k`
services (R107, R108, R112), the wraps of the accumulator and the output frequency (R109, R110). -/

namespace Sys2Proof.Machine

/-! ### One engine step -/

/-- Settles O23: the top `TABLE_BITS` bits of a word are below `TABLE_SIZE`. -/
theorem indexStaysInTable : Obligations.IndexStaysInTable :=
  tableIndex_lt_tableSize

/-- The entry that an accumulator value selects exists (R101, R102, R106). -/
theorem getElem?_phaseIndex (inst : Instance) (acc : Word) :
    inst.params.waveTable[acc.toNat / 2 ^ (32 - inst.params.tableBits)]? =
      some (tableRead inst.params (tableIndex inst.params acc)) := by
  rw [← tableIndex_eq]
  exact getElem?_eq_tableRead inst (tableIndex_lt_tableSize inst acc)

/-- A sample of the table is widened without loss (R8, R103). -/
theorem widen_toNat (inst : Instance) {x : Sample} (hx : x ∈ inst.params.waveTable) :
    (widen inst.params x).toNat = x.toNat * 2 ^ inst.params.shift := by
  obtain ⟨-, -, -, ⟨-, hcmp⟩, -⟩ := inst.bounds
  have hword : x.toNat * 2 ^ inst.params.shift < 2 ^ 32 :=
    (sample_shift_lt inst hx).trans_le (Nat.pow_le_pow_right (by decide) hcmp)
  rw [widen, Nat.shiftLeft_eq, BitVec.toNat_ofNat, Nat.mod_eq_of_lt hword]

/-- A widened value has its low `SHIFT` bits 0 (R103). -/
theorem getLsbD_widen_of_lt {p : Params} {k : Nat} (hk : k < p.shift) (x : Sample) : (widen p x).getLsbD k = false := by
  simp [widen, BitVec.getLsbD_ofNat, Nat.testBit_shiftLeft, hk]

/-- Settles O24: `SAMPLE_WIDTH + SHIFT <= CMP_WIDTH <= 32` leaves room for every bit of the sample. -/
theorem wideningLosesNoBit : Obligations.WideningLosesNoBit := by
  unfold Obligations.WideningLosesNoBit
  intro inst x hx
  have hvalue := widen_toNat inst hx
  exact ⟨hvalue, hvalue ▸ sample_shift_lt inst hx, fun k hk => getLsbD_widen_of_lt hk x⟩

/-- The compare value is the selected sample times `2^SHIFT` (R102, R103). -/
theorem compareValue_toNat (inst : Instance) (acc : Word) :
    (compareValue inst.params acc).toNat =
      (tableRead inst.params (tableIndex inst.params acc)).toNat * 2 ^ inst.params.shift :=
  widen_toNat inst (tableRead_mem inst (tableIndex_lt_tableSize inst acc))

/-- Settles O22: the entry is the one that the advanced value selects. -/
theorem engineAdvancesIndexesLooksUpWidens : Obligations.EngineAdvancesIndexesLooksUpWidens := by
  unfold Obligations.EngineAdvancesIndexesLooksUpWidens
  intro inst acc tw
  rw [← phaseAdvance_toNat]
  exact ⟨rfl, _, getElem?_phaseIndex inst (phaseAdvance acc tw), compareValue_toNat inst (phaseAdvance acc tw)⟩

/-! ### The accumulator after `k` steps -/

/-- The closed form as a number (R107). -/
theorem phaseAfter_toNat (k : Nat) (acc tw : Word) :
    (phaseAfter k acc tw).toNat = (acc.toNat + k * tw.toNat) % 2 ^ 32 :=
  BitVec.toNat_ofNat ..

/-- No step leaves the accumulator as it is. -/
theorem phaseAfter_zero (acc tw : Word) : phaseAfter 0 acc tw = acc := by
  simp [phaseAfter]

/-- The first of `k + 1` steps advances the accumulator from which the other `k` start. -/
theorem phaseAfter_succ (k : Nat) (acc tw : Word) :
    phaseAfter (k + 1) acc tw = phaseAfter k (phaseAdvance acc tw) tw := by
  apply BitVec.eq_of_toNat_eq
  rw [phaseAfter_toNat, phaseAfter_toNat, phaseAdvance_toNat, Nat.mod_add_mod, Nat.succ_mul, Nat.add_comm (k * _),
    Nat.add_assoc]

/-- With `tw = 2^(32 - TABLE_BITS)` from 0 the accumulator is at the start of entry `k mod TABLE_SIZE` (R112). -/
theorem phaseAfter_toNat_of_indexStep (inst : Instance) {tw : Word} (k : Nat)
    (htw : tw.toNat = 2 ^ (32 - inst.params.tableBits)) :
    (phaseAfter k 0#32 tw).toNat = k % inst.params.tableSize * 2 ^ (32 - inst.params.tableBits) := by
  obtain ⟨⟨-, htb⟩, -⟩ := inst.bounds
  have hsplit : 2 ^ 32 = inst.params.tableSize * 2 ^ (32 - inst.params.tableBits) := by
    rw [Params.tableSize, ← pow_add, Nat.add_sub_cancel' (by omega)]
  rw [phaseAfter_toNat, htw, BitVec.toNat_ofNat, Nat.zero_mod, Nat.zero_add, hsplit, Nat.mul_mod_mul_right]

/-! ### Services -/

section Services

variable {s : State} (hten : s.ctrl.ten = true) (huie : s.ctrl.uie = true) (huif : s.status.uif = false)
include hten huie huif

/-- A service of a block with nothing pending publishes one engine step and leaves `STATUS` as it was (R78, R120, R124). -/
theorem runOps_service (rest : List Instr) :
    runOps (.tick :: .update :: rest) s = runOps rest { s with
      phase := phaseAdvance s.phase s.tuning
      cmp := compareValue s.inst.params (phaseAdvance s.phase s.tuning) } := by
  have htick : exec .tick s = .next (s.setUif true) := by
    simp [exec, execTick, State.tickEnabled, State.overrun, hten, huif]
  have hupdate : exec .update (s.setUif true) = .next { s with
      phase := phaseAdvance s.phase s.tuning
      cmp := compareValue s.inst.params (phaseAdvance s.phase s.tuning) } := by
    simp [exec, execUpdate, State.updateEnabled, huie, engine, State.endOfService, State.setUif, State.setPhase,
      State.setCmp, ← huif]
  simp only [runOps, htick, hupdate]

/-- `k + 1` services leave the closed form of `PHASE` and its compare value, and change nothing else (R107). -/
theorem runOps_serviceOps_succ (k : Nat) :
    runOps (serviceOps (k + 1)) s = .next { s with
      phase := phaseAfter (k + 1) s.phase s.tuning
      cmp := compareValue s.inst.params (phaseAfter (k + 1) s.phase s.tuning) } := by
  induction k generalizing s with
  | zero =>
    rw [serviceOps, runOps_service hten huie huif, phaseAfter_succ, phaseAfter_zero]
    rfl
  | succ k ih =>
    rw [serviceOps, runOps_service hten huie huif, phaseAfter_succ]
    exact ih hten huie huif

/-- The same for `k >= 1` services. -/
theorem runOps_serviceOps {k : Nat} (hk : 1 ≤ k) :
    runOps (serviceOps k) s = .next { s with
      phase := phaseAfter k s.phase s.tuning
      cmp := compareValue s.inst.params (phaseAfter k s.phase s.tuning) } := by
  obtain ⟨j, rfl⟩ := Nat.exists_eq_add_of_le' hk
  exact runOps_serviceOps_succ hten huie huif j

end Services

/-- Settles O25: the closed form is reached by induction on the number of services, and its top bits select an entry. -/
theorem servicesReachClosedForm : Obligations.ServicesReachClosedForm := by
  unfold Obligations.ServicesReachClosedForm
  intro s k hten huie huif hk
  rw [← phaseAfter_toNat, runOps_serviceOps hten huie huif hk]
  refine ⟨_, getElem?_phaseIndex s.inst _, ?_⟩
  rw [← compareValue_toNat, BitVec.ofNat_toNat, BitVec.setWidth_eq]
  rfl

/-- Settles O26: after `k` steps of one entry each the accumulator is `k mod TABLE_SIZE` entries from 0. -/
theorem fullCycleVisitsEveryIndex : Obligations.FullCycleVisitsEveryIndex := by
  unfold Obligations.FullCycleVisitsEveryIndex
  intro s k hten huie huif hphase htw hk _
  have hrun := runOps_serviceOps hten huie huif hk
  rw [hphase] at hrun
  have hvalue := phaseAfter_toNat_of_indexStep s.inst k htw
  have hindex : tableIndex s.inst.params (phaseAfter k 0#32 s.tuning) = k % s.inst.params.tableSize := by
    rw [tableIndex_eq, hvalue, Nat.mul_div_cancel _ (Nat.two_pow_pos _)]
  refine ⟨_, _, hrun, ?_, compareValue_toNat s.inst _, hindex, ?_⟩
  · rw [← hindex]
    exact getElem?_eq_tableRead s.inst (tableIndex_lt_tableSize s.inst _)
  · rintro rfl
    apply BitVec.eq_of_toNat_eq
    rw [hvalue, Nat.mod_self, Nat.zero_mul]
    rfl

/-- Settles O27: the closed form reads `PHASE`, `TUNING` and the instance alone. -/
theorem publishedValuesAreDetermined : Obligations.PublishedValuesAreDetermined := by
  unfold Obligations.PublishedValuesAreDetermined
  intro s t k hk hten huie huif hten' huie' huif' hinst hphase htuning
  refine ⟨_, _, runOps_serviceOps hten huie huif hk, runOps_serviceOps hten' huie' huif' hk, ?_, ?_⟩
  · simp only [hinst, hphase, htuning]
  · simp only [hphase, htuning]

/-! ### Wraps and the output frequency -/

/-- The wraps of `k` steps are the turns of the unwrapped phase (R109). -/
theorem wraps_eq (tw acc : Word) (k : Nat) : wraps tw k acc = (acc.toNat + k * tw.toNat) / 2 ^ 32 := by
  induction k generalizing acc with
  | zero => rw [wraps, Nat.zero_mul, Nat.add_zero, Nat.div_eq_of_lt acc.isLt]
  | succ k ih =>
    rw [wraps, ih, phaseAdvance_toNat, Nat.succ_mul]
    split <;> omega

/-- `2^32` steps wrap `tw` times, from every accumulator value (R109). -/
theorem wraps_two_pow (tw acc : Word) : wraps tw (2 ^ 32) acc = tw.toNat := by
  rw [wraps_eq, Nat.add_mul_div_left _ _ (Nat.two_pow_pos 32), Nat.div_eq_of_lt acc.isLt, Nat.zero_add]

/-- Settles O28: each step wraps when the unwrapped phase completes a turn. -/
theorem wrapsGiveTheFrequency : Obligations.WrapsGiveTheFrequency := by
  unfold Obligations.WrapsGiveTheFrequency
  refine ⟨wraps_eq, fun p tw acc => ⟨wraps_two_pow tw acc, ?_⟩⟩
  rw [wraps_two_pow, outputFrequency]

/-- Settles O29: with `TICK_HZ = 15625` the three numbers are computed. -/
theorem referenceFrequencyIsExact : Obligations.ReferenceFrequencyIsExact := by
  unfold Obligations.ReferenceFrequencyIsExact
  have htick : Params.reference.tickHz = 15625 := rfl
  rw [outputFrequency, htick]
  refine ⟨?_, by decide, by decide⟩
  norm_num

end Sys2Proof.Machine
end

section
/-! PROOFS of the family 41_timer_pwm_driver.md: what TICK and UPDATE do and when they are refused (R120, R124), which
bytes the events leave as they were (R120, R124, R200), when a block is silent (R132), the services over finite runs
(R124, R126, R187) and over fair runs without end (R121, R128). -/

namespace Sys2Proof.Machine

/-! ### TICK and UPDATE -/

/-- TICK of a started block (R120). -/
theorem exec_tick {s : State} (hten : s.ctrl.ten = true) :
    exec .tick s = .next { s with
      status := ⟨true, s.status.ovr || (s.status.uif && s.ctrl.uie), s.status.cfgerr⟩ } := by
  have hfault : (if s.overrun then s.raiseFault .ovr else s).setUif true = { s with
      status := ⟨true, s.status.ovr || (s.status.uif && s.ctrl.uie), s.status.cfgerr⟩ } := by
    unfold State.overrun
    cases s.status.uif && s.ctrl.uie <;> simp [State.raiseFault_ovr, State.setUif]
  exact (if_pos hten).trans (congrArg Host.Outcome.next hfault)

/-- TICK of a block that is not started (R120). -/
theorem exec_tick_of_stopped {s : State} (hten : s.ctrl.ten = false) : exec .tick s = .refused .tickNotEnabled :=
  if_neg (Bool.eq_false_iff.1 hten)

/-- UPDATE is enabled by a pending tick in an armed block (R124). -/
theorem enabled_update_iff (s : State) : enabled .update s = true ↔ s.status.uif = true ∧ s.ctrl.uie = true :=
  Bool.and_eq_true_iff

/-- UPDATE of an armed block with a tick pending (R124). -/
theorem exec_update {s : State} (huif : s.status.uif = true) (huie : s.ctrl.uie = true) :
    exec .update s = .next { s with
      phase := (engine s.inst.params s.phase s.tuning).1
      cmp := (engine s.inst.params s.phase s.tuning).2
      status := ⟨false, s.status.ovr, s.status.cfgerr⟩ } :=
  if_pos ((enabled_update_iff s).2 ⟨huif, huie⟩)

/-- UPDATE where it is not enabled (R124). -/
theorem exec_update_of_not_enabled {s : State} (h : ¬enabled .update s = true) :
    exec .update s = .refused .updateNotEnabled :=
  if_neg h

/-- A TICK that completes, and what it leaves (R120). -/
theorem exec_tick_eq_next {s t : State} (h : exec .tick s = .next t) :
    s.ctrl.ten = true ∧
      t = { s with status := ⟨true, s.status.ovr || (s.status.uif && s.ctrl.uie), s.status.cfgerr⟩ } := by
  have hten : s.ctrl.ten = true := (exec_completes_iff .tick s).1 ⟨t, h⟩
  exact ⟨hten, Host.Outcome.next.inj (h.symm.trans (exec_tick hten))⟩

/-- An UPDATE that completes, and what it leaves (R124). -/
theorem exec_update_eq_next {s t : State} (h : exec .update s = .next t) :
    (s.status.uif = true ∧ s.ctrl.uie = true) ∧
      t = { s with
        phase := (engine s.inst.params s.phase s.tuning).1
        cmp := (engine s.inst.params s.phase s.tuning).2
        status := ⟨false, s.status.ovr, s.status.cfgerr⟩ } := by
  have hen := (enabled_update_iff s).1 ((exec_completes_iff .update s).1 ⟨t, h⟩)
  exact ⟨hen, Host.Outcome.next.inj (h.symm.trans (exec_update hen.1 hen.2))⟩

/-- Settles O16: the overrun test of R120 is the bit that `exec_tick` adds to `OVR`. -/
theorem tickSetsPendingAndOverrun : Obligations.TickSetsPendingAndOverrun := by
  unfold Obligations.TickSetsPendingAndOverrun
  intro tb s hten
  refine ⟨decode_eventWords (evt := 0#14) rfl tb, rfl, ?_⟩
  have hovr : (s.status.ovr || (s.status.uif && s.ctrl.uie)) =
      if s.status.uif = true ∧ s.ctrl.uie = true then true else s.status.ovr := by
    cases s.status.uif <;> cases s.ctrl.uie <;> simp
  rw [exec_tick hten, hovr]

/-- Settles O17: a started block performs TICK, so only a stopped one refuses it. -/
theorem tickNeverOccursWhileStopped : Obligations.TickNeverOccursWhileStopped := by
  unfold Obligations.TickNeverOccursWhileStopped
  refine fun s => ⟨fun hrefused => ?_, exec_tick_of_stopped⟩
  by_contra hten
  cases (exec_tick (Bool.eq_true_of_not_eq_false hten)).symm.trans hrefused

/-- Settles O18: UPDATE is one step of the engine. -/
theorem updatePublishesOneEngineStep : Obligations.UpdatePublishesOneEngineStep := by
  unfold Obligations.UpdatePublishesOneEngineStep
  exact fun tb s huif huie => ⟨decode_eventWords (evt := 1#14) rfl tb, rfl, exec_update huif huie⟩

/-- Settles O19: an armed block with a tick pending performs UPDATE, so only another refuses it. -/
theorem updateNeedsPendingAndArmed : Obligations.UpdateNeedsPendingAndArmed := by
  unfold Obligations.UpdateNeedsPendingAndArmed
  refine fun s => ⟨fun hrefused ⟨huif, huie⟩ => ?_, fun h => ?_⟩
  · cases (exec_update huif huie).symm.trans hrefused
  · exact exec_update_of_not_enabled ((enabled_update_iff s).not.2 h)

/-! ### The bytes that the events change -/

/-- Settles O60: each event writes registers of the named words alone, and no register lies in the table window. -/
theorem eventsChangeOnlyTheirWords : Obligations.EventsChangeOnlyTheirWords := by
  unfold Obligations.EventsChangeOnlyTheirWords
  refine ⟨fun s t h => ?_, fun s t h a hstatus hphase hcmp => ?_, fun s t h a ha => ?_⟩
  · obtain ⟨-, rfl⟩ := exec_tick_eq_next h
    refine ⟨fun a hstatus => State.spaceByte_congr rfl fun r hr => ?_, rfl⟩
    cases r with
    | status => exact absurd hr.symm hstatus
    | _ => rfl
  · obtain ⟨-, rfl⟩ := exec_update_eq_next h
    refine State.spaceByte_congr rfl fun r hr => ?_
    cases r with
    | status => exact absurd hr.symm hstatus
    | phase => exact absurd hr.symm hphase
    | cmp => exact absurd hr.symm hcmp
    | _ => rfl
  · obtain rfl : s.resetRegisters = t := Host.Outcome.next.inj h
    refine State.spaceByte_congr rfl fun r hr => ?_
    cases r with
    | param => rfl
    | _ =>
      simp only [regOffset, BitVec.toNat_ofNat] at hr
      omega

/-! ### What one operation does to `UIF`, `OVR`, `PHASE` and `CMP` -/

section Operation

variable {i : Instr} {s t : State}

/-- Only TICK makes a tick pending (R184). -/
theorem exec_uif_eq_false (htick : i ≠ .tick) (h : exec i s = .next t) (huif : s.status.uif = false) :
    t.status.uif = false := by
  cases exec_cases h with
  | tick => exact absurd rfl htick
  | update | reset => rfl
  | _ => exact huif

/-- Only UPDATE and RESET clear a pending tick (R184). -/
theorem exec_uif_eq_true (hupdate : i ≠ .update) (hreset : i ≠ .reset) (h : exec i s = .next t)
    (huif : s.status.uif = true) : t.status.uif = true := by
  cases exec_cases h with
  | tick => rfl
  | update => exact absurd rfl hupdate
  | reset => exact absurd rfl hreset
  | _ => exact huif

/-- But for RESET, only a TICK in a started and armed block changes `OVR` (R120). -/
theorem exec_ovr (hreset : i ≠ .reset) (h : exec i s = .next t) :
    t.status.ovr = s.status.ovr ∨ (t.ctrl.ten = true ∧ t.ctrl.uie = true) := by
  cases exec_cases h with
  | tick hten =>
    cases huie : s.ctrl.uie with
    | true => exact .inr ⟨hten, rfl⟩
    | false => simp
  | reset => exact absurd rfl hreset
  | _ => exact .inl rfl

/-- `PHASE` is written by WR_PHASE, UPDATE and RESET (R26). -/
theorem exec_phase (hwrite : ∀ d, i ≠ .wrPhase d) (hupdate : i ≠ .update) (hreset : i ≠ .reset)
    (h : exec i s = .next t) : t.phase = s.phase := by
  cases exec_cases h with
  | wrPhase d => exact absurd rfl (hwrite d)
  | update => exact absurd rfl hupdate
  | reset => exact absurd rfl hreset
  | _ => rfl

/-- `CMP` is written by WR_CMP, UPDATE and RESET (R27). -/
theorem exec_cmp (hwrite : ∀ d, i ≠ .wrCmp d) (hupdate : i ≠ .update) (hreset : i ≠ .reset)
    (h : exec i s = .next t) : t.cmp = s.cmp := by
  cases exec_cases h with
  | wrCmp d => exact absurd rfl (hwrite d)
  | update => exact absurd rfl hupdate
  | reset => exact absurd rfl hreset
  | _ => rfl

/-- The balance of one operation: a TICK that is not merged brings a pending tick, and an UPDATE takes one away
(R126). -/
theorem exec_pending_balance (hreset : i ≠ .reset) (h : exec i s = .next t) :
    (if i = .update then 1 else 0) + (if i = .tick ∧ s.status.uif = true then 1 else 0) +
        (if t.status.uif = true then 1 else 0) =
      (if i = .tick then 1 else 0) + (if s.status.uif = true then 1 else 0) := by
  by_cases htick : i = .tick
  · subst htick
    obtain ⟨-, rfl⟩ := exec_tick_eq_next h
    simp [Nat.add_comm]
  by_cases hupdate : i = .update
  · subst hupdate
    obtain ⟨⟨huif, -⟩, rfl⟩ := exec_update_eq_next h
    simp [huif]
  · have hkept : t.status.uif = s.status.uif := by
      cases huif : s.status.uif with
      | true => exact exec_uif_eq_true hupdate hreset h huif
      | false => exact exec_uif_eq_false htick h huif
    simp [htick, hupdate, hkept]

end Operation

/-! ### Finite runs -/

section Run

variable {ops : List Instr} {s t : State}

/-- A run that completes begins with an operation that completes. -/
theorem runOps_cons_eq_next {i : Instr} (h : runOps (i :: ops) s = .next t) :
    ∃ u, exec i s = .next u ∧ runOps ops u = .next t := by
  cases hi : exec i s with
  | next u => exact ⟨u, rfl, by simpa only [runOps, hi] using h⟩
  | fault f => exact f.casesOn
  | refused r => simp only [runOps, hi, reduceCtorEq] at h

/-- What each operation of a run keeps is kept by the run. -/
theorem runOps_preserves {P : State → Prop} (hexec : ∀ i ∈ ops, ∀ u v, P u → exec i u = .next v → P v) (hs : P s)
    (h : runOps ops s = .next t) : P t := by
  induction ops generalizing s with
  | nil =>
    cases h
    exact hs
  | cons i rest ih =>
    obtain ⟨u, hi, hrest⟩ := runOps_cons_eq_next h
    obtain ⟨hexec, hexecRest⟩ := List.forall_mem_cons.1 hexec
    exact ih hexecRest (hexec s u hs hi) hrest

/-- An operation of a run that completes was performed, after a part of the run and before another. -/
theorem runOps_of_mem {i : Instr} (hi : i ∈ ops) (h : runOps ops s = .next t) :
    ∃ pre post u v, pre ⊆ ops ∧ post ⊆ ops ∧
      runOps pre s = .next u ∧ exec i u = .next v ∧ runOps post v = .next t := by
  induction ops generalizing s with
  | nil => cases hi
  | cons j rest ih =>
    obtain ⟨w, hj, hrest⟩ := runOps_cons_eq_next h
    obtain rfl | hi := List.mem_cons.1 hi
    · exact ⟨[], rest, s, w, List.nil_subset _, List.subset_cons_self .., rfl, hj, hrest⟩
    · obtain ⟨pre, post, u, v, hpre, hpost, hu, hv, ht⟩ := ih hi hrest
      refine ⟨j :: pre, post, u, v, List.cons_subset_cons j hpre, List.subset_cons_of_subset j hpost, ?_, hv, ht⟩
      simp only [runOps, hj, hu]

/-- Without a TICK no tick becomes pending. -/
theorem runOps_uif_eq_false (htick : .tick ∉ ops) (huif : s.status.uif = false) (h : runOps ops s = .next t) :
    t.status.uif = false :=
  runOps_preserves (P := fun u => u.status.uif = false)
    (fun _ hi _ _ hu hv => exec_uif_eq_false (ne_of_mem_of_not_mem hi htick) hv hu) huif h

/-- Without a TICK and with nothing pending no UPDATE occurs. -/
theorem update_not_mem_of_tick_not_mem (htick : .tick ∉ ops) (huif : s.status.uif = false)
    (h : runOps ops s = .next t) : .update ∉ ops := by
  intro hmem
  obtain ⟨pre, _, u, v, hpre, -, hu, hv, -⟩ := runOps_of_mem hmem h
  obtain ⟨⟨hpending, -⟩, -⟩ := exec_update_eq_next hv
  have hnone := runOps_uif_eq_false (fun ht => htick (hpre ht)) huif hu
  simp [hnone] at hpending

section NoReset

variable (hreset : .reset ∉ ops) (h : runOps ops s = .next t)
include hreset h

/-- The enables once set stay set (R23). -/
theorem runOps_enables :
    (s.ctrl.ten = true → t.ctrl.ten = true) ∧ (s.ctrl.uie = true → t.ctrl.uie = true) := by
  refine runOps_preserves (P := fun u =>
    (s.ctrl.ten = true → u.ctrl.ten = true) ∧ (s.ctrl.uie = true → u.ctrl.uie = true)) ?_ ⟨id, id⟩ h
  intro i hi u v hu hv
  obtain ⟨hten, huie⟩ := enablesClearOnlyByReset i u v (ne_of_mem_of_not_mem hi hreset) hv
  exact ⟨hten ∘ hu.1, huie ∘ hu.2⟩

/-- A run with a TICK in it ends started (R120). -/
theorem ten_of_tick_mem (hmem : .tick ∈ ops) : t.ctrl.ten = true := by
  obtain ⟨_, post, u, v, -, hpost, -, hv, ht⟩ := runOps_of_mem hmem h
  obtain ⟨hten, -⟩ := exec_tick_eq_next hv
  have hkept := (enablesClearOnlyByReset _ _ _ (by decide) hv).1 hten
  exact (runOps_enables (fun hr => hreset (hpost hr)) ht).1 hkept

/-- A run with an UPDATE in it ends armed (R124). -/
theorem uie_of_update_mem (hmem : .update ∈ ops) : t.ctrl.uie = true := by
  obtain ⟨_, post, u, v, -, hpost, -, hv, ht⟩ := runOps_of_mem hmem h
  obtain ⟨⟨-, huie⟩, -⟩ := exec_update_eq_next hv
  have hkept := (enablesClearOnlyByReset _ _ _ (by decide) hv).2 huie
  exact (runOps_enables (fun hr => hreset (hpost hr)) ht).2 hkept

/-- A run that changes `OVR` ends started and armed (R120). -/
theorem runOps_ovr : t.status.ovr = s.status.ovr ∨ (t.ctrl.ten = true ∧ t.ctrl.uie = true) := by
  refine runOps_preserves (P := fun u => u.status.ovr = s.status.ovr ∨ (u.ctrl.ten = true ∧ u.ctrl.uie = true))
    (fun i hi u v hu hv => ?_) (.inl rfl) h
  have hne : i ≠ .reset := ne_of_mem_of_not_mem hi hreset
  obtain ⟨hten, huie⟩ := enablesClearOnlyByReset i u v hne hv
  obtain hu | hu := hu
  · exact (exec_ovr hne hv).imp_left (·.trans hu)
  · exact .inr (hu.imp hten huie)

/-- Without UPDATE and WR_PHASE `PHASE` keeps its value. -/
theorem runOps_phase (hupdate : .update ∉ ops) (hwrite : ∀ d, .wrPhase d ∉ ops) : t.phase = s.phase :=
  runOps_preserves (P := fun u => u.phase = s.phase)
    (fun _ hi _ _ hu hv => (exec_phase (fun d => ne_of_mem_of_not_mem hi (hwrite d)) (ne_of_mem_of_not_mem hi hupdate)
      (ne_of_mem_of_not_mem hi hreset) hv).trans hu) rfl h

/-- Without UPDATE and WR_CMP `CMP` keeps its value. -/
theorem runOps_cmp (hupdate : .update ∉ ops) (hwrite : ∀ d, .wrCmp d ∉ ops) : t.cmp = s.cmp :=
  runOps_preserves (P := fun u => u.cmp = s.cmp)
    (fun _ hi _ _ hu hv => (exec_cmp (fun d => ne_of_mem_of_not_mem hi (hwrite d)) (ne_of_mem_of_not_mem hi hupdate)
      (ne_of_mem_of_not_mem hi hreset) hv).trans hu) rfl h

end NoReset

end Run

/-- Settles O49: a run with a TICK ends started, one with an UPDATE ends armed and had a tick to service, and one that
changes `OVR` ends started and armed. -/
theorem silenceWhileNotStartedOrNotArmed : Obligations.SilenceWhileNotStartedOrNotArmed := by
  unfold Obligations.SilenceWhileNotStartedOrNotArmed
  intro s t ops hreset h
  have hnoTick (hten : t.ctrl.ten = false) : .tick ∉ ops :=
    fun hmem => Bool.eq_false_iff.1 hten (ten_of_tick_mem hreset h hmem)
  refine ⟨hnoTick, fun hsilent => ?_⟩
  have hupdate : .update ∉ ops := by
    obtain huie | ⟨hten, huif⟩ := hsilent
    · exact fun hmem => Bool.eq_false_iff.1 huie (uie_of_update_mem hreset h hmem)
    · exact update_not_mem_of_tick_not_mem (hnoTick hten) huif h
  have hovr : t.status.ovr = s.status.ovr := by
    refine (runOps_ovr hreset h).resolve_right fun ⟨hten, huie⟩ => ?_
    simp [hten, huie] at hsilent
  exact ⟨hupdate, hovr, runOps_phase hreset h hupdate, runOps_cmp hreset h hupdate⟩

/-- Settles O52: UPDATE leaves nothing pending, and without a TICK nothing becomes pending. -/
theorem noUpdateWithoutANewTick : Obligations.NoUpdateWithoutANewTick := by
  unfold Obligations.NoUpdateWithoutANewTick
  intro s t u ops hupdate htick h
  obtain ⟨-, rfl⟩ := exec_update_eq_next hupdate
  have hnone := runOps_uif_eq_false htick rfl h
  have hdisabled : ¬enabled .update u = true := by simp [enabled_update_iff, hnone]
  exact ⟨eq_false_of_ne_true hdisabled, exec_update_of_not_enabled hdisabled⟩

/-! ### Counting ticks and updates -/

/-- The count of an operation, from the first operation on. -/
theorem opCount_cons (i j : Instr) (ops : List Instr) :
    opCount i (j :: ops) = (if j = i then 1 else 0) + opCount i ops := by
  by_cases h : j = i <;> simp [opCount, h, Nat.add_comm]

/-- The merged ticks of a run whose first operation completes. -/
theorem mergedTicks_cons {i : Instr} {s u : State} (h : exec i s = .next u) (ops : List Instr) :
    mergedTicks (i :: ops) s = (if i = .tick ∧ s.status.uif = true then 1 else 0) + mergedTicks ops u := by
  simp only [mergedTicks, h]

/-- The balance of a run from any state: each tick, and one pending at the start, is serviced, merged, or pending at the
end (R126). -/
theorem runOps_pending_balance {ops : List Instr} {s t : State} (hreset : .reset ∉ ops) (h : runOps ops s = .next t) :
    opCount .update ops + mergedTicks ops s + (if t.status.uif = true then 1 else 0) =
      opCount .tick ops + (if s.status.uif = true then 1 else 0) := by
  induction ops generalizing s with
  | nil =>
    cases h
    rfl
  | cons i rest ih =>
    obtain ⟨u, hi, hrest⟩ := runOps_cons_eq_next h
    have hne : i ≠ .reset := ne_of_mem_of_not_mem List.mem_cons_self hreset
    have hfirst := exec_pending_balance hne hi
    have htail := ih (fun hr => hreset (List.mem_cons_of_mem i hr)) hrest
    rw [opCount_cons, opCount_cons, mergedTicks_cons hi]
    omega

/-- Settles O53: the balance of a run that starts with nothing pending. -/
theorem updatesCountUnmergedTicks : Obligations.UpdatesCountUnmergedTicks := by
  unfold Obligations.UpdatesCountUnmergedTicks
  intro s t ops huif hreset h
  simpa [huif] using runOps_pending_balance hreset h

/-! ### Fair runs -/

section FairRun

variable {sts : Nat → State} {op : Nat → Option Instr}

/-- What each operation from point `n` on keeps holds from `n` on if it holds there. -/
theorem IsRun.preserves {P : State → Prop} (hrun : IsRun sts op) {n : Nat}
    (hexec : ∀ k, n ≤ k → ∀ i u v, op k = some i → P u → exec i u = .next v → P v) (hn : P (sts n)) :
    ∀ m, n ≤ m → P (sts m) := by
  refine fun m hm => Nat.le_induction hn (fun k hk hP => ?_) m hm
  have hstep := hrun k
  cases hop : op k with
  | none =>
    rw [hop] at hstep
    exact hstep ▸ hP
  | some i =>
    rw [hop] at hstep
    exact hexec k hk i _ _ hop hP hstep

/-- The operation of a point is performed there. -/
theorem IsRun.exec {n : Nat} {i : Instr} (hrun : IsRun sts op) (h : op n = some i) :
    exec i (sts n) = .next (sts (n + 1)) := by
  have hstep := hrun n
  rwa [h] at hstep

variable (hrun : IsRun sts op) (hreset : ∀ n, op n ≠ some .reset)
include hrun hreset

/-- The enables once set stay set (R23). -/
theorem IsRun.enables (n : Nat) :
    ((sts 0).ctrl.ten = true → (sts n).ctrl.ten = true) ∧ ((sts 0).ctrl.uie = true → (sts n).ctrl.uie = true) := by
  refine hrun.preserves (P := fun u =>
    ((sts 0).ctrl.ten = true → u.ctrl.ten = true) ∧ ((sts 0).ctrl.uie = true → u.ctrl.uie = true))
    ?_ ⟨id, id⟩ n n.zero_le
  intro k _ i u v hop hu hv
  obtain ⟨hten, huie⟩ := enablesClearOnlyByReset i u v (fun hi => hreset k (hi ▸ hop)) hv
  exact ⟨hten ∘ hu.1, huie ∘ hu.2⟩

/-- A started block ticks again and again if the timer agent is treated fairly (R121). -/
theorem IsRun.tick_again (hfair : WeaklyFair .tick sts op) (hten : (sts 0).ctrl.ten = true) (n : Nat) :
    ∃ m, n ≤ m ∧ op m = some .tick :=
  hfair n fun m _ => (hrun.enables hreset m).1 hten

/-- In an armed block a pending tick is serviced at last if the engine agent is treated fairly (R128): until then it
stays pending, so UPDATE stays enabled. -/
theorem IsRun.update_of_pending (hfair : WeaklyFair .update sts op) (huie : (sts 0).ctrl.uie = true) {n : Nat}
    (huif : (sts n).status.uif = true) : ∃ m, n ≤ m ∧ op m = some .update := by
  by_contra hnever
  have hpending : ∀ m, n ≤ m → (sts m).status.uif = true :=
    hrun.preserves (P := fun u => u.status.uif = true)
      (fun k hk i _ _ hop hu hv =>
        exec_uif_eq_true (fun hi => hnever ⟨k, hk, hi ▸ hop⟩) (fun hi => hreset k (hi ▸ hop)) hv hu) huif
  exact hnever (hfair n fun m hm => (enabled_update_iff _).2 ⟨hpending m hm, (hrun.enables hreset m).2 huie⟩)

end FairRun

/-- Settles O50: a tick occurs, it is pending after that, and a pending tick is serviced. -/
theorem fairRunsTickAndUpdateForever : Obligations.FairRunsTickAndUpdateForever := by
  unfold Obligations.FairRunsTickAndUpdateForever
  intro sts op hrun hreset htickFair hupdateFair hten huie n
  obtain ⟨m, hnm, hop⟩ := hrun.tick_again hreset htickFair hten n
  have hpending : (sts (m + 1)).status.uif = true := by
    rw [(exec_tick_eq_next (hrun.exec hop)).2]
  obtain ⟨k, hmk, hupdate⟩ := hrun.update_of_pending hreset hupdateFair huie hpending
  exact ⟨⟨m, hnm, hop⟩, k, by omega, hupdate⟩

end Sys2Proof.Machine
end

section
/-! PROOFS of the family 42_setup_interface.md: the bits of the register words (R23, R24, R27 to R29), what each bus read
returns (R140 to R145, R147 to R149), when each bus write is taken (R146, R150 to R153), and arming with a tick pending
(R184). -/

namespace Sys2Proof

/-- A word by its value (R71). -/
theorem formatWord_eq_ofNat (cls : BitVec 2) (low : BitVec 14) :
    formatWord cls low = BitVec.ofNat 16 (cls.toNat * 2 ^ 14 + low.toNat) := by
  rw [← formatWord_toNat, BitVec.ofNat_toNat, BitVec.setWidth_eq]

namespace Machine

/-! ### The bits of the register words -/

/-- The bits of `CTRL` (R23). -/
theorem getLsbD_ctrlWord (c : Ctrl) (k : Nat) :
    (ctrlWord c).getLsbD k = if k = 0 then c.ten else if k = 1 then c.uie else false := by
  simp only [ctrlWord, BitVec.getLsbD_setWidth, BitVec.getLsbD_append, BitVec.getLsbD_ofBool]
  match k with
  | 0 | 1 | k + 2 => simp

/-- The bits of `STATUS` (R24). -/
theorem getLsbD_statusWord (st : Status) (k : Nat) :
    (statusWord st).getLsbD k =
      if k = 0 then st.uif else if k = 1 then st.ovr else if k = 2 then st.cfgerr else false := by
  simp only [statusWord, BitVec.getLsbD_setWidth, BitVec.getLsbD_append, BitVec.getLsbD_ofBool]
  match k with
  | 0 | 1 | 2 | k + 3 => simp

/-- The low `width` bits are kept, those above are 0 (R11). -/
theorem getLsbD_lowBits (width : Nat) (v : Word) (k : Nat) :
    (lowBits width v).getLsbD k = (decide (k < width) && v.getLsbD k) := by
  rw [← BitVec.testBit_toNat, lowBits_toNat, Nat.testBit_mod_two_pow, BitVec.testBit_toNat]

/-- The bits of `ERRINFO` (R29). -/
theorem getLsbD_errinfoWord (e : ErrInfo) (k : Nat) :
    (errinfoWord e).getLsbD k =
      if k < 14 then e.off.getLsbD k else if k = 14 then e.wr else if k = 31 then e.valid else false := by
  simp only [errinfoWord, BitVec.getLsbD_append, BitVec.getLsbD_ofBool, BitVec.getLsbD_zero]
  obtain hoff | rfl | ⟨hlow, hhigh⟩ | rfl | hout : k < 14 ∨ k = 14 ∨ (15 ≤ k ∧ k ≤ 30) ∨ k = 31 ∨ 32 ≤ k := by omega
  · rw [if_pos hoff, if_pos hoff]
  · rfl
  · rw [if_neg, if_neg, if_pos, if_neg, if_neg, if_neg] <;> omega
  · rfl
  · have habove : ¬k < 14 ∧ ¬k - 14 < 1 ∧ ¬k - 14 - 1 < 16 ∧ k - 14 - 1 - 16 ≠ 0 ∧ k ≠ 14 ∧ k ≠ 31 := by omega
    simp only [habove, if_false, decide_false, Bool.false_and]

/-- The fields of `PARAM` do not overlap (R8, R28). -/
theorem paramWord_toNat (inst : Instance) :
    (paramWord inst.params).toNat = inst.params.cmpWidth * 2 ^ 24 + inst.params.shift * 2 ^ 16 +
      (inst.params.sampleWidth % 32) * 2 ^ 8 + inst.params.tableBits := by
  obtain ⟨⟨-, htb⟩, -, hshift, ⟨-, hcmp⟩, -⟩ := inst.bounds
  simp only [paramWord, BitVec.toNat_add, BitVec.toNat_shiftLeft, BitVec.toNat_ofNat, Nat.shiftLeft_eq]
  omega

/-! ### Bus reads -/

/-- A read of a named register decodes by its row, returns the register's word and changes nothing else (R54, R74). -/
theorem read_returns_regWord (r : Reg) (tb : Nat) (s : State) :
    decode tb (readWords (regOffset r)) = .ok (decodeRead tb (regOffset r)) ∧
      exec (decodeRead tb (regOffset r)) s = .next { s with returned := some (s.regWord r) } :=
  ⟨decode_read tb _, exec_decodeRead_of_regAt (regAt_regOffset r) tb s⟩

/-- Settles O1: the word returned is that of `CTRL`. -/
theorem readOfCtrlReturnsEnables : Obligations.ReadOfCtrlReturnsEnables := by
  unfold Obligations.ReadOfCtrlReturnsEnables
  intro tb s
  obtain ⟨hdecode, hexec⟩ := read_returns_regWord .ctrl tb s
  have hbits (k : Nat) := getLsbD_ctrlWord s.ctrl k
  refine ⟨hdecode, _, hexec, hbits 0, hbits 1, fun k hk => (hbits k).trans ?_⟩
  rw [if_neg (by omega), if_neg (by omega)]

/-- Settles O2: the word returned is that of `STATUS`. -/
theorem readOfStatusReturnsFlags : Obligations.ReadOfStatusReturnsFlags := by
  unfold Obligations.ReadOfStatusReturnsFlags
  intro tb s
  obtain ⟨hdecode, hexec⟩ := read_returns_regWord .status tb s
  have hbits (k : Nat) := getLsbD_statusWord s.status k
  refine ⟨hdecode, _, hexec, hbits 0, hbits 1, hbits 2, fun k hk => (hbits k).trans ?_⟩
  rw [if_neg (by omega), if_neg (by omega), if_neg (by omega)]

/-- Settles O3: a change of `TUNING` would need the block unlocked or a RESET. -/
theorem readOfTuningReturnsIt : Obligations.ReadOfTuningReturnsIt := by
  unfold Obligations.ReadOfTuningReturnsIt
  intro tb s
  obtain ⟨hdecode, hexec⟩ := read_returns_regWord .tuning tb s
  refine ⟨hdecode, hexec, fun i t hlocked hreset h => ?_⟩
  by_contra hne
  obtain hi | ⟨hunlocked, -⟩ := tuningChangesOnlyByItsWrite i s t h hne
  · exact hreset hi
  · simp [hunlocked] at hlocked

/-- Settles O4: the word returned is `PHASE` itself. -/
theorem readOfPhaseReturnsIt : Obligations.ReadOfPhaseReturnsIt := by
  unfold Obligations.ReadOfPhaseReturnsIt
  exact fun tb s => read_returns_regWord .phase tb s

/-- Settles O5: the word returned is the low `CMP_WIDTH` bits of `CMP`. -/
theorem readOfCmpReturnsItsField : Obligations.ReadOfCmpReturnsItsField := by
  unfold Obligations.ReadOfCmpReturnsItsField
  intro tb s
  obtain ⟨hdecode, hexec⟩ := read_returns_regWord .cmp tb s
  exact ⟨hdecode, _, hexec, getLsbD_lowBits s.inst.params.cmpWidth s.cmp⟩

/-- Settles O6: the word is made of the instance alone, which no operation changes. -/
theorem readOfParamReturnsFields : Obligations.ReadOfParamReturnsFields := by
  unfold Obligations.ReadOfParamReturnsFields
  intro tb s
  obtain ⟨hdecode, hexec⟩ := read_returns_regWord .param tb s
  refine ⟨hdecode, _, hexec, paramWord_toNat s.inst, fun i t h => ?_⟩
  rw [State.regWord, State.regWord, exec_inst h]

/-- Settles O7: the word returned is that of `ERRINFO`, and a record that is held stays until RESET. -/
theorem readOfErrinfoReturnsRecord : Obligations.ReadOfErrinfoReturnsRecord := by
  unfold Obligations.ReadOfErrinfoReturnsRecord
  intro tb s
  obtain ⟨hdecode, hexec⟩ := read_returns_regWord .errinfo tb s
  have hbits (k : Nat) := getLsbD_errinfoWord s.errinfo k
  refine ⟨hdecode, _, hexec, fun k hk => (hbits k).trans (if_pos hk), hbits 14, fun k hlow hhigh => ?_, hbits 31,
    fun hreset => ?_, fun i t hvalid hi h => ?_⟩
  · exact (hbits k).trans (by rw [if_neg (by omega), if_neg (by omega), if_neg (by omega)])
  · have hempty : errinfoWord ⟨false, false, 0#14⟩ = 0#32 := by decide
    exact (congrArg errinfoWord hreset).trans hempty
  · obtain ⟨hkept, -⟩ := firstRefusalIsKept i s t hi h
    exact congrArg errinfoWord (hkept hvalid)

/-- Settles O8: the word is that of RD_TABLE's encoding, and the entry is the instance's, which no operation changes. -/
theorem readOfTableReturnsEntry : Obligations.ReadOfTableReturnsEntry := by
  unfold Obligations.ReadOfTableReturnsEntry
  intro s i hi
  have hword : BitVec.ofNat 16 (0x1000 + 4 * i.toNat) = formatWord 0b00#2 (tableOffset i) := by
    simp [formatWord_eq_ofNat, tableOffset_toNat]
  have hentry := getElem?_eq_tableRead s.inst hi
  refine ⟨?_, _, hentry, exec_rdTable_of_lt hi, fun j t h => ?_⟩
  · rw [hword]
    exact decodeOfEncodeIsIdentity _ (.rdTable i) s.inst.bounds.1.2 (decide_eq_true hi)
  · rwa [exec_inst h]

/-- Settles O9: the map takes no other row at such an offset. -/
theorem readOfUnmappedIsRefused : Obligations.ReadOfUnmappedIsRefused := by
  unfold Obligations.ReadOfUnmappedIsRefused
  intro s off hunmapped
  have hword : BitVec.ofNat 16 off.toNat = formatWord 0b00#2 off := by simp [formatWord_eq_ofNat]
  rw [hword, decode_read, decodeRead_of_unmapped s.inst.bounds.1.2 hunmapped]
  exact ⟨rfl, exec_rdRefused off s⟩

/-! ### Bus writes -/

/-- Locked means that an enable is set (R23). -/
theorem State.locked_iff (s : State) : s.locked = true ↔ s.ctrl.ten = true ∨ s.ctrl.uie = true :=
  Bool.or_eq_true_iff

/-- A write of `CTRL` would clear a set bit exactly when it carries 0 where `CTRL` holds 1 (R146). -/
theorem State.wouldClearCtrl_iff (ten uie : Bool) (s : State) :
    s.wouldClearCtrl ten uie = true ↔ (s.ctrl.ten = true ∧ ten = false) ∨ (s.ctrl.uie = true ∧ uie = false) := by
  simp [State.wouldClearCtrl]

/-- WR_CMP is refused once locked or for data outside the compare range (R152). -/
theorem wrCmp_refused_iff (d : Word) (s : State) :
    (s.locked || !dataInCompareRange s.inst.params d) = true ↔
      (s.ctrl.ten = true ∨ s.ctrl.uie = true) ∨ 2 ^ s.inst.params.cmpWidth ≤ d.toNat := by
  simp [State.locked_iff, dataInCompareRange]

/-- Settles O11: the test of R146 on the two low bits of the data. -/
theorem writeOfCtrlOnlySets : Obligations.WriteOfCtrlOnlySets := by
  unfold Obligations.WriteOfCtrlOnlySets
  intro tb s d
  exact ⟨decode_writeWords tb (regOffset .ctrl) d,
    congrArg Host.Outcome.next (if_congr (s.wouldClearCtrl_iff _ _) (s.refuseWrite_eq _) rfl)⟩

/-- Settles O12: the one condition is the lock. -/
theorem writeOfTuningWhileUnlocked : Obligations.WriteOfTuningWhileUnlocked := by
  unfold Obligations.WriteOfTuningWhileUnlocked
  intro tb s d
  exact ⟨decode_writeWords tb (regOffset .tuning) d,
    congrArg Host.Outcome.next (if_congr s.locked_iff (s.refuseWrite_eq _) rfl)⟩

/-- Settles O13: the one condition is the lock. -/
theorem writeOfPhaseWhileUnlocked : Obligations.WriteOfPhaseWhileUnlocked := by
  unfold Obligations.WriteOfPhaseWhileUnlocked
  intro tb s d
  exact ⟨decode_writeWords tb (regOffset .phase) d,
    congrArg Host.Outcome.next (if_congr s.locked_iff (s.refuseWrite_eq _) rfl)⟩

/-- Settles O14: a value in the compare range is the value of its low `CMP_WIDTH` bits. -/
theorem writeOfCmpInRangeWhileUnlocked : Obligations.WriteOfCmpInRangeWhileUnlocked := by
  unfold Obligations.WriteOfCmpInRangeWhileUnlocked
  intro tb s d
  refine ⟨decode_writeWords tb (regOffset .cmp) d, congrArg Host.Outcome.next ?_⟩
  refine ite_congr (propext (wrCmp_refused_iff d s)) (fun _ => s.refuseWrite_eq _) fun htaken => ?_
  have hfits : d.toNat < 2 ^ s.inst.params.cmpWidth := not_le.1 fun hout => htaken (.inr hout)
  rw [lowBits_eq_self hfits]
  rfl

/-- Settles O15: the write rows leave every other offset to WR_REFUSED. -/
theorem writeElsewhereIsRefused : Obligations.WriteElsewhereIsRefused := by
  unfold Obligations.WriteElsewhereIsRefused
  intro tb s off d hrefused
  have hword : BitVec.ofNat 16 (0x4000 + off.toNat) = formatWord 0b01#2 off := by simp [formatWord_eq_ofNat]
  refine ⟨?_, congrArg Host.Outcome.next (s.refuseWrite_eq off)⟩
  rw [hword, ← decodeWrite_of_not_writable hrefused d]
  exact decode_writeWords tb off d

/-! ### Arming -/

/-- A write of both enables clears none, so it is taken in every state (R146). -/
theorem exec_wrCtrl_arm (s : State) : exec (.wrCtrl 3#32) s = .next { s with ctrl := ⟨true, true⟩ } := by
  have htaken : ¬s.wouldClearCtrl (dataTen 3#32) (dataUie 3#32) = true := by
    simp [State.wouldClearCtrl_iff, dataTen, dataUie]
  exact congrArg Host.Outcome.next (if_neg htaken)

/-- Settles O51: the arming write leaves the tick pending, so UPDATE is enabled after it. -/
theorem armingServicesPendingTick : Obligations.ArmingServicesPendingTick := by
  unfold Obligations.ArmingServicesPendingTick
  intro s _ _ huif
  have hupdate := exec_update (s := { s with ctrl := ⟨true, true⟩ }) huif rfl
  simp only [runOps, exec_wrCtrl_arm, hupdate]

end Machine
end Sys2Proof
end

section
/-! PROOFS of the family 60_exceptions.md: which operations raise a fault and which clear one (R180, R181), what a refused
access leaves as it was (R181), which operations set and clear a pending tick (R184), and TICK and UPDATE in either order
(R185). -/

namespace Sys2Proof.Machine

section Operation

variable {i : Instr} {s t : State}

/-- But for RESET, every operation keeps the fault bits that are set (R181). -/
theorem exec_keeps_faultBits (hreset : i ≠ .reset) (h : exec i s = .next t) :
    (s.status.ovr = true → t.status.ovr = true) ∧ (s.status.cfgerr = true → t.status.cfgerr = true) := by
  cases exec_cases h with
  | tick => exact ⟨fun hovr => by simp [hovr], id⟩
  | refusedRead | refusedWrite => exact ⟨id, fun _ => rfl⟩
  | reset => exact absurd rfl hreset
  | _ => exact ⟨id, id⟩

/-- Only a TICK in an armed block with a tick pending raises `OVR` (R120, R180). -/
theorem exec_raises_ovr (h : exec i s = .next t) (hclear : s.status.ovr = false) (hset : t.status.ovr = true) :
    i = .tick ∧ s.status.uif = true ∧ s.ctrl.uie = true := by
  cases exec_cases h with
  | tick => simpa [hclear] using hset
  | reset => simp at hset
  | _ => exact absurd hset (Bool.eq_false_iff.1 hclear)

/-- An operation raises `CFGERR` by recording an access that is refused, which leaves the other registers as they were
(R180, R181). -/
theorem exec_raises_cfgerr (h : exec i s = .next t) (hclear : s.status.cfgerr = false) (hset : t.status.cfgerr = true) :
    ((∃ off, i = .rdRefused off) ∨ (∃ k, i = .rdTable k ∧ s.inst.params.tableSize ≤ k.toNat) ∨
      (∃ d, i = .wrCtrl d) ∨ (∃ d, i = .wrTuning d) ∨ (∃ d, i = .wrPhase d) ∨ (∃ d, i = .wrCmp d) ∨
      ∃ off d, i = .wrRefused off d) ∧
    ∃ r wr off, t = { s with returned := r }.withRefusal wr off := by
  cases exec_cases h with
  | refusedRead _ hi => exact ⟨hi.imp_right .inl, _, _, _, rfl⟩
  | refusedWrite _ hi => exact ⟨.inr (.inr hi), s.returned, _, _, rfl⟩
  | reset => simp at hset
  | _ => exact absurd hset (Bool.eq_false_iff.1 hclear)

/-- RD_REFUSED and WR_REFUSED record the access; a read also answers (R53, R181). -/
theorem exec_refusedAccess {off : Offset} {d : Word} (hi : i ∈ [.rdRefused off, .wrRefused off d])
    (h : exec i s = .next t) : ∃ r wr, t = { s with returned := r }.withRefusal wr off := by
  simp only [List.mem_cons, List.not_mem_nil, or_false] at hi
  obtain rfl | rfl := hi
  · exact ⟨some 0#32, false, Host.Outcome.next.inj (h.symm.trans (exec_rdRefused off s))⟩
  · exact ⟨s.returned, true, (Host.Outcome.next.inj h).symm.trans (s.refuseWrite_eq off)⟩

end Operation

/-- Settles O44: but for RESET no operation clears a fault bit, and RESET clears all of `STATUS`. -/
theorem faultBitsClearOnlyByReset : Obligations.FaultBitsClearOnlyByReset := by
  unfold Obligations.FaultBitsClearOnlyByReset
  refine fun i s t h => ⟨fun hreset => exec_keeps_faultBits hreset h, ?_⟩
  rintro rfl
  cases h
  exact s.resetRegisters_status

/-- Settles O46: any other operation keeps a pending tick, and none but TICK brings one. -/
theorem pendingTickClearsOnlyByService : Obligations.PendingTickClearsOnlyByService := by
  unfold Obligations.PendingTickClearsOnlyByService
  refine fun i s t h => ⟨fun hpending hcleared => ?_, fun hidle hset => ?_⟩
  · by_contra hother
    obtain ⟨hupdate, hreset⟩ := not_or.1 hother
    exact absurd (exec_uif_eq_true hupdate hreset h hpending) (Bool.eq_false_iff.1 hcleared)
  · by_contra htick
    exact absurd hset (Bool.eq_false_iff.1 (exec_uif_eq_false htick h hidle))

/-- Settles O47: the one other refusal of the model, of a table index past the table, is of no well-formed operation. -/
theorem faultsComeFromTheirCauses : Obligations.FaultsComeFromTheirCauses := by
  unfold Obligations.FaultsComeFromTheirCauses
  rintro tb i s t rfl hwf h
  refine ⟨exec_raises_ovr h, fun hclear hset => ?_⟩
  obtain ⟨hcause, r, wr, off, rfl⟩ := exec_raises_cfgerr h hclear hset
  refine ⟨?_, rfl, rfl, rfl, rfl⟩
  obtain hread | ⟨k, rfl, hpast⟩ | hctrl | htuning | hphase | hcmp | hwrite := hcause
  · exact .inl hread
  · have hinside : k.toNat < s.inst.params.tableSize := of_decide_eq_true hwf
    exact absurd hinside (not_lt.2 hpast)
  · exact .inr (.inr (.inl hctrl))
  · exact .inr (.inr (.inr (.inl htuning)))
  · exact .inr (.inr (.inr (.inr (.inl hphase))))
  · exact .inr (.inr (.inr (.inr (.inr hcmp))))
  · exact .inr (.inl hwrite)

/-! ### Either order of TICK and UPDATE, and one fault at a time -/

/-- TICK first overruns the pending tick, and the UPDATE after it keeps `OVR` (R185). -/
theorem exec_tick_then_update {s : State} (hten : s.ctrl.ten = true) (huif : s.status.uif = true)
    (huie : s.ctrl.uie = true) :
    ∃ t u : State, exec .tick s = .next t ∧ exec .update t = .next u ∧ t.status.ovr = true ∧ u.status.ovr = true ∧
      u.phase = (engine s.inst.params s.phase s.tuning).1 := by
  refine ⟨_, _, exec_tick hten, exec_update rfl huie, ?_, ?_, rfl⟩ <;> simp [huif, huie]

/-- UPDATE first takes the pending tick away, so the TICK after it overruns nothing (R185). -/
theorem exec_update_then_tick {s : State} (hten : s.ctrl.ten = true) (huif : s.status.uif = true)
    (huie : s.ctrl.uie = true) :
    ∃ v w : State, exec .update s = .next v ∧ exec .tick v = .next w ∧ v.status.ovr = s.status.ovr ∧
      w.status.ovr = s.status.ovr ∧ v.phase = (engine s.inst.params s.phase s.tuning).1 ∧ w.phase = v.phase :=
  ⟨_, _, exec_update huif huie, exec_tick hten, rfl, by simp, rfl, rfl⟩

/-- No operation raises both faults: only a TICK raises `OVR`, and a TICK keeps `CFGERR` (R185). -/
theorem exec_raises_at_most_one_fault {i : Instr} {s t : State} (h : exec i s = .next t) :
    ¬((s.status.ovr = false ∧ t.status.ovr = true) ∧ (s.status.cfgerr = false ∧ t.status.cfgerr = true)) := by
  rintro ⟨⟨hovr, hovr'⟩, hcfgerr, hcfgerr'⟩
  obtain ⟨rfl, -⟩ := exec_raises_ovr h hovr hovr'
  obtain ⟨-, rfl⟩ := exec_tick_eq_next h
  exact absurd hcfgerr' (Bool.eq_false_iff.1 hcfgerr)

/-- A refusal while no record is held records its own access (R181). -/
theorem State.withRefusal_of_not_valid {s : State} (h : s.errinfo.valid = false) (wr : Bool) (off : Offset) :
    s.withRefusal wr off =
      { s with status := ⟨s.status.uif, s.status.ovr, true⟩, errinfo := ⟨true, wr, off⟩ } := by
  simp [State.withRefusal, h]

/-- Settles O48: the two orders, the one fault of an operation, and WR_CMP refused for both of its reasons at once. -/
theorem eitherOrderAdmittedOneFaultEach : Obligations.EitherOrderAdmittedOneFaultEach := by
  unfold Obligations.EitherOrderAdmittedOneFaultEach
  refine ⟨fun s hten huif huie => ?_, fun i s t => exec_raises_at_most_one_fault, fun s d hlocked hout hvalid => ?_⟩
  · obtain ⟨t, u, htick, hupdate, htovr, huovr, huphase⟩ := exec_tick_then_update hten huif huie
    obtain ⟨v, w, hupdate', htick', hvovr, hwovr, hvphase, hwphase⟩ := exec_update_then_tick hten huif huie
    exact ⟨t, u, v, w, htick, hupdate, hupdate', htick', htovr, huovr, hvovr, hwovr, huphase.trans hvphase.symm, hwphase⟩
  · obtain ⟨-, hwrite⟩ := writeOfCmpInRangeWhileUnlocked 0 s d
    rw [hwrite, if_pos (.inl (s.locked_iff.1 hlocked)), State.withRefusal_of_not_valid hvalid]

/-! ### The frame of the refused accesses -/

/-- Settles O59: the record shows in `STATUS` and `ERRINFO` alone, and no byte depends on the value that a read returns. -/
theorem refusalsChangeOnlyTheRecord : Obligations.RefusalsChangeOnlyTheRecord := by
  unfold Obligations.RefusalsChangeOnlyTheRecord
  intro i off d s t hi h
  obtain ⟨r, wr, rfl⟩ := exec_refusedAccess hi h
  exact ⟨fun a hstatus herrinfo => State.withRefusal_spaceByte hstatus herrinfo wr off { s with returned := r },
    rfl, rfl, rfl, rfl, rfl⟩

end Sys2Proof.Machine
end

section
/-! PROOFS of the family 70_reset_and_hazards.md: RESET and the reset state (R200, R201), the invariant there, and the
order of the configuration writes before arming (R203, R211). -/

namespace Sys2Proof.Machine

/-! ### RESET and the reset state -/

/-- Settles O20: RESET is the third event row, and `resetRegisters` writes every register. -/
theorem resetRestoresEveryRegister : Obligations.ResetRestoresEveryRegister := by
  unfold Obligations.ResetRestoresEveryRegister
  exact fun tb s => ⟨decode_eventWords (evt := 2#14) rfl tb, rfl, rfl⟩

/-- Settles O21: each register of `State.initial` is its reset value, and the reference instance fixes the last two. -/
theorem resetStateHoldsResetValues : Obligations.ResetStateHoldsResetValues := by
  unfold Obligations.ResetStateHoldsResetValues
  exact ⟨fun inst => ⟨rfl, rfl, rfl, rfl, rfl, rfl, rfl⟩, rfl, rfl⟩

/-- The reset state of an instance meets the invariant: `CMP` is 0, no flag is set and no access is recorded (R201). -/
theorem State.initial_inv (inst : Instance) : (State.initial inst).Inv :=
  ⟨Nat.two_pow_pos _, rfl, fun _ => rfl, fun huif => absurd huif Bool.false_ne_true,
    fun hovr => absurd hovr Bool.false_ne_true⟩

/-- Settles O39: `State.reset` is the reset state of the reference instance. -/
theorem resetMeetsInvariant : Obligations.ResetMeetsInvariant := by
  unfold Obligations.ResetMeetsInvariant
  exact ⟨State.initial_inv, State.initial_inv Instance.reference⟩

/-! ### The configuration writes before arming -/

section Unlocked

variable {s : State} (hunlocked : s.locked = false)
include hunlocked

/-- An unlocked block takes every write of `TUNING` (R150). -/
theorem exec_wrTuning_of_unlocked (d : Word) : exec (.wrTuning d) s = .next { s with tuning := d } :=
  congrArg Host.Outcome.next (if_neg (Bool.eq_false_iff.1 hunlocked))

/-- An unlocked block takes every write of `PHASE` (R151). -/
theorem exec_wrPhase_of_unlocked (d : Word) : exec (.wrPhase d) s = .next { s with phase := d } :=
  congrArg Host.Outcome.next (if_neg (Bool.eq_false_iff.1 hunlocked))

/-- An unlocked block takes every write of `CMP` in the compare range (R152). -/
theorem exec_wrCmp_of_unlocked {d : Word} (hrange : d.toNat < 2 ^ s.inst.params.cmpWidth) :
    exec (.wrCmp d) s = .next { s with cmp := d } := by
  obtain ⟨-, hwrite⟩ := writeOfCmpInRangeWhileUnlocked 0 s d
  have htaken : ¬((s.ctrl.ten = true ∨ s.ctrl.uie = true) ∨ 2 ^ s.inst.params.cmpWidth ≤ d.toNat) := by
    simpa [← s.locked_iff, hunlocked] using hrange
  rw [hwrite, if_neg htaken]

/-- Any sequence of the three configuration writes leaves an unlocked block with the registers that it wrote, whatever
the order, and changes nothing else (R203). -/
theorem runOps_configuration {T P C : Word} (hrange : C.toNat < 2 ^ s.inst.params.cmpWidth) {ops : List Instr}
    (hops : ops ⊆ [.wrTuning T, .wrPhase P, .wrCmp C]) :
    runOps ops s = .next { s with
      tuning := if .wrTuning T ∈ ops then T else s.tuning
      phase := if .wrPhase P ∈ ops then P else s.phase
      cmp := if .wrCmp C ∈ ops then C else s.cmp } := by
  induction ops generalizing s with
  | nil => rfl
  | cons i rest ih =>
    obtain ⟨hi, hrest⟩ := List.cons_subset.1 hops
    simp only [List.mem_cons, List.not_mem_nil, or_false] at hi
    obtain rfl | rfl | rfl := hi
    · have hrun := ih (s := { s with tuning := T }) hunlocked hrange hrest
      simp [runOps, exec_wrTuning_of_unlocked hunlocked, hrun]
    · have hrun := ih (s := { s with phase := P }) hunlocked hrange hrest
      simp [runOps, exec_wrPhase_of_unlocked hunlocked, hrun]
    · have hrun := ih (s := { s with cmp := C }) hunlocked hrange hrest
      simp [runOps, exec_wrCmp_of_unlocked hunlocked hrange, hrun]

end Unlocked

/-- After a run that completes, the rest of the sequence goes on from where it ended. -/
theorem runOps_append {ops : List Instr} {s t : State} (h : runOps ops s = .next t) (rest : List Instr) :
    runOps (ops ++ rest) s = runOps rest t := by
  induction ops generalizing s with
  | nil =>
    cases h
    rfl
  | cons i ops ih =>
    obtain ⟨u, hi, hops⟩ := runOps_cons_eq_next h
    simpa only [List.cons_append, runOps, hi] using ih hops

/-- Settles O54: what the writes leave depends on which of them were performed and not on their order, and arming takes
it as it is. -/
theorem configurationOrderIsFree : Obligations.ConfigurationOrderIsFree := by
  unfold Obligations.ConfigurationOrderIsFree
  intro s T P C ops hunlocked hrange hperm
  have hconf := runOps_configuration hunlocked hrange hperm.subset
  simp only [hperm.mem_iff, List.mem_cons, true_or, or_true, if_true] at hconf
  rw [runOps_append hconf]
  simp only [runOps, exec_wrCtrl_arm]

end Sys2Proof.Machine
end
